-- ==== Sys2Proof/Word.lean ====
section
/-! DEFINITION. The bit-vector types the spec handles as bits. -/

namespace Sys2Proof

/-- A Segment Pattern: 8 bits, one per LED segment, 1 = lit (00_scope.md R9, 30_encoding.md R42). -/
abbrev Pattern := BitVec 8

/-- The lines of the request port at the widest operand, TEMP_W = 64 (30_encoding.md R34, 00_scope.md R5).
At a smaller TEMP_W only lines TEMP_W+7..0 exist (log entry 3). -/
abbrev ReqWord := BitVec 72

/-- The 64-bit result word (30_encoding.md R39). -/
abbrev ResultWord := BitVec 64

end Sys2Proof
end

