-- ==== Sys2Proof/Config.lean ====
section
/-! DEFINITION. The build-time configuration record `Cfg` (00_scope.md R5 to R8).  It holds every value the spec leaves
to the build; no value is left free beyond it, because the spec treats none as "any value"
(93_implementation_defined.md, part 1). -/

namespace Sys2Proof

/-- RESIDUE_MODE (00_scope.md R6): how the least-significant digit of a negative operand is taken. -/
inductive ResidueMode where
  | magnitude
  | truncated
  deriving DecidableEq, Repr

/-- HEX_ORDER (00_scope.md R7): which nibble's pattern is element 0 of a HEX result. -/
inductive HexOrder where
  | hiFirst
  | loFirst
  deriving DecidableEq, Repr

/-- The segment names of a digit position (30_encoding.md R43). -/
inductive Segment where
  | a | b | c | d | e | f | g | dp
  deriving DecidableEq, Repr

/-- Every segment name once, in the order of 30_encoding.md R43. -/
def Segment.all : List Segment := [.a, .b, .c, .d, .e, .f, .g, .dp]

/-- SEGMAP (30_encoding.md R43): the bit position of each segment. -/
structure SegMap where
  a : Fin 8
  b : Fin 8
  c : Fin 8
  d : Fin 8
  e : Fin 8
  f : Fin 8
  g : Fin 8
  dp : Fin 8
  deriving DecidableEq, Repr

/-- `SEGMAP(x)`: the bit that lights segment x (30_encoding.md R43). -/
def SegMap.bit (m : SegMap) : Segment → Fin 8
  | .a => m.a
  | .b => m.b
  | .c => m.c
  | .d => m.d
  | .e => m.e
  | .f => m.f
  | .g => m.g
  | .dp => m.dp

/-- The configuration record `Cfg`: everything fixed when the block is built (00_scope.md R5 to R8, 10_state.md R17).
DP_MASK is not a field: 30_encoding.md R43 makes it `1 << SEGMAP(DP)`, so it is computed (log entry 9). -/
structure Cfg where
  /-- TEMP_W, the width of the signed operand (R5). -/
  tempW : Nat
  /-- RESIDUE_MODE (R6). -/
  residueMode : ResidueMode
  /-- HEX_ORDER (R7). -/
  hexOrder : HexOrder
  /-- SEGMAP (R43). -/
  segmap : SegMap
  /-- The DIGIT table, DIGIT[0..9] (10_state.md R20). -/
  digit : Vector Pattern 10
  /-- HEXAF[10..15]: entry i is the pattern of nibble 10 + i (10_state.md R21). -/
  hexaf : Vector Pattern 6
  /-- GLYPH_C, the "C" unit glyph (10_state.md R22). -/
  glyphC : Pattern
  /-- FALLBACK, also the sign marker (10_state.md R22, 30_encoding.md R48). -/
  fallback : Pattern
  deriving DecidableEq, Repr

end Sys2Proof
end

