-- ==== Sys2Proof/Machine/Tables.lean ====
section
/-! DEFINITION. The views of the build-time tables (DP_MASK, the HEX table), the fixed BLANK glyph, the count of one bits,
and the reference instantiation of 30_encoding.md R50. -/

namespace Sys2Proof

/-- `popcount(p)`: the number of 1 bits of a pattern (00_scope.md R10). -/
def popcount (p : Pattern) : Nat := (List.range 8).countP (fun i => p.getLsbD i)

/-- BLANK = 0x00, fixed (30_encoding.md R47). -/
def blankGlyph : Pattern := 0x00#8

/-- `DP_MASK = 1 << SEGMAP(DP)` (30_encoding.md R43). -/
def Cfg.dpMask (c : Cfg) : Pattern := 1#8 <<< c.segmap.dp.val

/-- The HEX table: DIGIT[0..9] followed by HEXAF (10_state.md R21, R24). -/
def Cfg.hexTable (c : Cfg) : Vector Pattern 16 := c.digit ++ c.hexaf

/-- The reference instantiation (30_encoding.md R50) at the defaults TEMP_W = 16, MAGNITUDE, HI_FIRST
(00_scope.md R5 to R7).  Its glyph values are examples: no definition of the model depends on them, and a
statement may use them only by naming this configuration (R51; log entry 2). -/
def Cfg.reference : Cfg where
  tempW := 16
  residueMode := .magnitude
  hexOrder := .hiFirst
  segmap := { dp := 7, a := 6, b := 5, c := 4, d := 3, e := 2, f := 1, g := 0 }
  digit := #v[0x7E#8, 0x30#8, 0x6D#8, 0x79#8, 0x33#8, 0x5B#8, 0x5F#8, 0x70#8, 0x7F#8, 0x7B#8]
  hexaf := #v[0x77#8, 0x1F#8, 0x4E#8, 0x3D#8, 0x4F#8, 0x47#8]
  glyphC := 0x4E#8
  fallback := 0x01#8

end Sys2Proof
end

