-- ==== Sys2Proof/Syntax.lean ====
section
/-! DEFINITION. The four operations as syntax: one constructor per row of spec/opcode_table.json, the operation
selector, and the two reasons a request word is refused. -/

namespace Sys2Proof

/-- The operation selected by `ctl[1:0]` (30_encoding.md R35). -/
inductive Op where
  | dec
  | hex
  | fmt
  | lut
  deriving DecidableEq, Repr

/-- One accepted request: the operation and its operand.  DEC, FMT and LUT take a mathematical integer
(00_scope.md R11, 30_encoding.md R36); HEX takes a byte whose nibbles are sliced as bits (R37). -/
inductive Instr where
  /-- DEC n (40_segment_encoder.md R55). -/
  | dec (n : Int)
  /-- HEX b (40_segment_encoder.md R57). -/
  | hex (b : BitVec 8)
  /-- FMT t, t in tenths of a degree (41_frame_formatter.md R59). -/
  | fmt (t : Int)
  /-- LUT r (40_segment_encoder.md R56). -/
  | lut (r : Int)
  deriving DecidableEq, Repr

/-- The operation of an instruction. -/
def Instr.op : Instr → Op
  | .dec _ => .dec
  | .hex _ => .hex
  | .fmt _ => .fmt
  | .lut _ => .lut

/-- The number of patterns in an operation's result (10_state.md R19, 30_encoding.md R39). -/
def Op.resultCount : Op → Nat
  | .dec => 1
  | .hex => 2
  | .fmt => 8
  | .lut => 1

/-- Why a request word is refused (60_exceptions.md R68). -/
inductive RefusalReason where
  /-- RESERVED_CTL: `ctl[7:2] ≠ 0` (30_encoding.md R38). -/
  | reservedCtl
  /-- HEX_OPERAND_RANGE: HEX with `opd[TEMP_W-1:8] ≠ 0` (30_encoding.md R37). -/
  | hexOperandRange
  deriving DecidableEq, Repr

end Sys2Proof
end

