-- ==== Sys2Proof/WellFormed.lean ====
section
/-! DEFINITION. When a configuration is well formed (30_encoding.md R52) and when an instruction's operand is in
the range its operation admits (30_encoding.md R36, R37, R41). -/

namespace Sys2Proof

/-- 8 ≤ TEMP_W ≤ 64 (00_scope.md R5). -/
def Cfg.widthOk (c : Cfg) : Bool := decide (8 ≤ c.tempW) && decide (c.tempW ≤ 64)

/-- SEGMAP is a bijection: eight segments on eight different bits (30_encoding.md R43, R52). -/
def Cfg.segmapOk (c : Cfg) : Bool := decide ((Segment.all.map c.segmap.bit).Nodup)

/-- A pattern with the decimal-point bit clear. -/
def Cfg.dpClear (c : Cfg) (p : Pattern) : Bool := decide (p &&& c.dpMask = 0#8)

/-- 30_encoding.md R45: the ten digit patterns are distinct and none carries the decimal point. -/
def Cfg.digitOk (c : Cfg) : Bool := decide (c.digit.toList.Nodup) && c.digit.toList.all c.dpClear

/-- 30_encoding.md R46: GLYPH_C does not carry the decimal point. -/
def Cfg.glyphCOk (c : Cfg) : Bool := c.dpClear c.glyphC

/-- 30_encoding.md R48: FALLBACK lights exactly one segment, not the decimal point, and is no digit pattern. -/
def Cfg.fallbackOk (c : Cfg) : Bool :=
  decide (popcount c.fallback = 1) && c.dpClear c.fallback && c.digit.toList.all (fun p => decide (p ≠ c.fallback))

/-- 30_encoding.md R49: no HEXAF pattern carries the decimal point, and the 16 HEX patterns are distinct. -/
def Cfg.hexOk (c : Cfg) : Bool := c.hexaf.toList.all c.dpClear && decide (c.hexTable.toList.Nodup)

/-- A well-formed configuration (30_encoding.md R52).  The mode parameters hold by type, R44 by the definition of
`Cfg.dpMask` (Laws/Config.lean proves it), and R47 by the definition of `blankGlyph`. -/
def Cfg.wf (c : Cfg) : Bool :=
  c.widthOk && c.segmapOk && c.digitOk && c.glyphCOk && c.fallbackOk && c.hexOk

/-- The signed range of a TEMP_W-bit operand (00_scope.md R5, 30_encoding.md R36). -/
def inSignedRange (tempW : Nat) (n : Int) : Bool :=
  decide (-(2 ^ (tempW - 1) : Int) ≤ n) && decide (n < (2 ^ (tempW - 1) : Int))

/-- An instruction whose operand a request word of width TEMP_W + 8 can carry (30_encoding.md R36, R37). -/
def Instr.wf (tempW : Nat) : Instr → Bool
  | .dec n => inSignedRange tempW n
  | .hex _ => true
  | .fmt t => inSignedRange tempW t
  | .lut r => inSignedRange tempW r

end Sys2Proof
end

