-- ==== Sys2Proof/Decode.lean ====
section
/-! DEFINITION. Decoding a request word, total, refusing by name (30_encoding.md R34 to R40), and the encoder
written from the same tables. -/

namespace Sys2Proof

/-- What decoding a request word gives (30_encoding.md R40). -/
inductive Decoded where
  | accepted (i : Instr)
  | refused (r : RefusalReason)
  deriving DecidableEq, Repr

/-- Field `ctl`, bits [7:0] (30_encoding.md R34). -/
def ctlOf (tempW : Nat) (req : BitVec (tempW + 8)) : BitVec 8 := req.extractLsb' 0 8

/-- Field `opd`, bits [TEMP_W+7:8] (30_encoding.md R34). -/
def opdOf (tempW : Nat) (req : BitVec (tempW + 8)) : BitVec tempW := req.extractLsb' 8 tempW

/-- Field `op`, `ctl[1:0]` (30_encoding.md R35). -/
def opBitsOf (ctl : BitVec 8) : BitVec 2 := ctl.extractLsb' 0 2

/-- Field `rsv`, `ctl[7:2]` (30_encoding.md R38). -/
def reservedOf (ctl : BitVec 8) : BitVec 6 := ctl.extractLsb' 2 6

/-- `sext_TEMP_W(opd)`: the operand as a signed integer (00_scope.md R11, 30_encoding.md R36). -/
def signedOperand (tempW : Nat) (opd : BitVec tempW) : Int := opd.toInt

/-- `opd[7:0]`, the byte operand of HEX (30_encoding.md R37). -/
def byteOperand (tempW : Nat) (opd : BitVec tempW) : BitVec 8 := opd.extractLsb' 0 8

/-- `opd[TEMP_W-1:8]`, which must be 0 in a HEX request (30_encoding.md R37). -/
def aboveByte (tempW : Nat) (opd : BitVec tempW) : BitVec (tempW - 8) := opd.extractLsb' 8 (tempW - 8)

/-- The operation selected by `op` (30_encoding.md R35). -/
def opOfBits (b : BitVec 2) : Op :=
  if b = 0b00#2 then .dec else if b = 0b01#2 then .hex else if b = 0b10#2 then .fmt else .lut

/-- The decoder of 30_encoding.md R40.  The reserved bits are checked first (60_exceptions.md R70). -/
def decode (tempW : Nat) (req : BitVec (tempW + 8)) : Decoded :=
  let ctl := ctlOf tempW req
  let opd := opdOf tempW req
  if reservedOf ctl ≠ 0#6 then .refused .reservedCtl
  else
    match opOfBits (opBitsOf ctl) with
    | .dec => .accepted (.dec (signedOperand tempW opd))
    | .hex =>
      if aboveByte tempW opd ≠ 0#(tempW - 8) then .refused .hexOperandRange
      else .accepted (.hex (byteOperand tempW opd))
    | .fmt => .accepted (.fmt (signedOperand tempW opd))
    | .lut => .accepted (.lut (signedOperand tempW opd))

/-- The selector bits of an operation (30_encoding.md R35). -/
def opBits : Op → BitVec 2
  | .dec => 0b00#2
  | .hex => 0b01#2
  | .fmt => 0b10#2
  | .lut => 0b11#2

/-- The `ctl` field of an operation: reserved bits 0 above the selector (30_encoding.md R34, R38). -/
def ctlBits (o : Op) : BitVec 8 := 0#6 ++ opBits o

/-- The `opd` field of an instruction (30_encoding.md R36, R37). -/
def opdBits (tempW : Nat) : Instr → BitVec tempW
  | .dec n => BitVec.ofInt tempW n
  | .hex b => b.setWidth tempW
  | .fmt t => BitVec.ofInt tempW t
  | .lut r => BitVec.ofInt tempW r

/-- The request word of an instruction (30_encoding.md R34). -/
def encode (tempW : Nat) (i : Instr) : BitVec (tempW + 8) := opdBits tempW i ++ ctlBits i.op

/-- TEMP_W of the words of spec/opcode_table.json (30_encoding.md, the opcode map). -/
def tableTempW : Nat := 16

/-- The instruction the decoder reads from a row's word: `nbits` bits numbered as spec/opcode_table.json numbers
them, every bit above 0, at the table's TEMP_W = 16. -/
def decodeTableWord (nbits w : Nat) : Option Instr :=
  match decode tableTempW (BitVec.ofNat (tableTempW + 8) (w % 2 ^ nbits)) with
  | .accepted i => some i
  | .refused _ => none

end Sys2Proof
end

