-- ==== Sys2Proof/Machine/State.lean ====
section
/-! DEFINITION. The state a model of SSD holds: the build-time tables and parameters, the inputs the host has
issued, the result port, the refusal mark and the result trace (10_state.md R15 to R24, 60_exceptions.md R68,
95_test_vectors.md section 3), and the reasons a step stops. -/

namespace Sys2Proof.Machine

/-- A result: 1 pattern (DEC, LUT), 2 (HEX) or 8 (FMT), delivered whole (10_state.md R19, 20_memory.md R31).
Element k of a frame is frame position k (20_memory.md R28). -/
inductive Result where
  | one (p : Pattern)
  | two (p0 p1 : Pattern)
  | frame (f : Vector Pattern 8)
  deriving DecidableEq, Repr

/-- One thing the host does at the block's inputs (60_exceptions.md R76, 70_reset_and_hazards.md R77). -/
inductive Input where
  /-- A request word on the request port, evaluated to its end (10_state.md R18). -/
  | request (w : ReqWord)
  /-- A reset while no request is being evaluated (70_reset_and_hazards.md R77). -/
  | reset
  /-- A reset while request `w` is being evaluated: the request gives no result (R77). -/
  | requestCutByReset (w : ReqWord)
  deriving DecidableEq, Repr

/-- One recorded refusal: its reason, and which evaluated request of the run it was, counted from 1
(60_exceptions.md R68; 95_test_vectors.md program P4). -/
structure RefusalRecord where
  reason : RefusalReason
  number : Nat
  deriving DecidableEq, Repr

/-- The state.  SSD has no registers, no pc, no flags and no memory (10_state.md R15 to R17, 20_memory.md R25);
what follows is every item of the table of 10_state.md R24, the port's input side, and the record of the run. -/
structure State where
  /-- The tables, constant glyphs and parameters, fixed at build time: no step writes them (R17, R20 to R22;
  log entry 1). -/
  cfg : Cfg
  /-- What the host has issued and the block has not yet taken, oldest first (20_memory.md R32; log entry 4). -/
  inputs : List Input
  /-- The result port: the last evaluated request's result, `none` while it has no value (R23). -/
  port : Option Result
  /-- The refusal mark with its reasons, oldest first; empty = clear (60_exceptions.md R68). -/
  mark : List RefusalRecord
  /-- The result trace: one entry per evaluated request, oldest first; `none` = no result
  (95_test_vectors.md section 3). -/
  trace : List (Option Result)
  deriving DecidableEq, Repr

/-- Why the machine stops with a fault.  A step never raises one (60_exceptions.md R67). -/
inductive Fault where
  /-- The result port was read while it has no value (93_implementation_defined.md I17).  Raised only by
  `State.readResult`; safe: no value is made up. -/
  | noResult
  deriving DecidableEq, Repr

/-- Why the machine evaluates nothing. -/
inductive Refusal where
  /-- An instruction without a meaning yet; raised by an arm of `exec` only; safe.  No arm raises it now. -/
  | notModelled (mnemonic : String)
  /-- The configuration is not well formed, so no request is evaluated (60_exceptions.md R69).  Raised by `step`;
  safe. -/
  | illFormedConfig
  deriving DecidableEq, Repr

/-- A block built with configuration `c`, right after reset: the tables hold their parameter values, the port has
no value, nothing is issued and the run's record is clear (10_state.md R23, R24). -/
def State.resetOf (c : Cfg) : State where
  cfg := c
  inputs := []
  port := none
  mark := []
  trace := []

/-- The machine right after reset, built with the reference instantiation of 30_encoding.md R50: the spec leaves the
build parameters open (DESIGN CHOICE, log entry 2). -/
def State.reset : State := State.resetOf Cfg.reference

end Sys2Proof.Machine
end

