-- ==== Sys2Proof/Machine/Operands.lean ====
section
/-! DEFINITION. The integer arithmetic of the operands (00_scope.md R11) and the reads of the two tables
(40_segment_encoder.md R53, R54; 20_memory.md R26). -/

namespace Sys2Proof.Machine

/-- `tdiv(a, 10)`: the quotient rounded toward zero, sign(a) × floor(|a| / 10) (00_scope.md R11). -/
def tdiv (a : Int) : Int := a.sign * ((a.natAbs / 10 : Nat) : Int)

/-- `trem(a, 10) = a − 10 × tdiv(a, 10)` (00_scope.md R11). -/
def trem (a : Int) : Int := a - 10 * tdiv a

/-- The residue function `res(n)` (40_segment_encoder.md R53). -/
def res (m : ResidueMode) (n : Int) : Int :=
  match m with
  | .magnitude => ((n.natAbs % 10 : Nat) : Int)
  | .truncated => trem n

/-- The lookup with fallback `LUTF(r)`: DIGIT is read only at an index in 0..9 (40_segment_encoder.md R54,
20_memory.md R26). -/
def lutf (c : Cfg) (r : Int) : Pattern :=
  if h : 0 ≤ r ∧ r ≤ 9 then c.digit[r.toNat]'(by omega) else c.fallback

/-- `HEX[d]` for a nibble d: the HEX table is read at an index in 0..15 only (40_segment_encoder.md R57,
20_memory.md R26). -/
def hexLookup (c : Cfg) (d : BitVec 4) : Pattern := c.hexTable[d.toNat]'d.isLt

/-- `b[7:4]` (40_segment_encoder.md R57). -/
def hiNibble (b : BitVec 8) : BitVec 4 := b.extractLsb' 4 4

/-- `b[3:0]` (40_segment_encoder.md R57). -/
def loNibble (b : BitVec 8) : BitVec 4 := b.extractLsb' 0 4

/-- The single pattern of DEC's result, which FMT uses for each digit (40_segment_encoder.md R55,
41_frame_formatter.md R59). -/
def decPattern (c : Cfg) (n : Int) : Pattern := lutf c (res c.residueMode n)

end Sys2Proof.Machine
end

