-- ==== Sys2Proof/Machine/Ops.lean ====
section
/-! DEFINITION. The shared operations over the state: delivering a result, taking an input, a reset, the packing of
a result into its word, and what the host can do and see (30_encoding.md R39, 60_exceptions.md R76,
70_reset_and_hazards.md R77).  SSD has no memory and takes no exception (20_memory.md R25, 60_exceptions.md R67,
R72), so there is no memory operation, no exception entry and no return from one. -/

namespace Sys2Proof.Machine

/-- A result is delivered whole: the port holds it and the trace has one more entry (20_memory.md R31). -/
def State.withResult (s : State) (r : Result) : State :=
  { s with port := some r, trace := s.trace ++ [some r] }

/-- The outcome of an accepted request: its result, and nothing else (60_exceptions.md R67). -/
def deliver (s : State) (r : Result) : Host.Outcome State Fault Refusal := .next (s.withResult r)

/-- The head of the inputs is taken: `rest` is what remains (20_memory.md R32). -/
def State.withInputs (s : State) (rest : List Input) : State := { s with inputs := rest }

/-- A reset changes no table; the port has no value until the next request is evaluated (10_state.md R23,
70_reset_and_hazards.md R77).  The run's record is kept: the mark is never cleared (60_exceptions.md R68). -/
def State.afterReset (s : State) : State := { s with port := none }

/-- The lines of the request port that exist at this TEMP_W (30_encoding.md R34; log entry 3). -/
def portWord (c : Cfg) (w : ReqWord) : BitVec (c.tempW + 8) := w.setWidth (c.tempW + 8)

/-- The result as its sequence of patterns, element 0 first (10_state.md R19). -/
def Result.patterns : Result → List Pattern
  | .one p => [p]
  | .two p0 p1 => [p0, p1]
  | .frame f => f.toList

/-- Element i in bits [8i+7:8i], 0 above the last element (30_encoding.md R39, 20_memory.md R29). -/
def packPatterns : List Pattern → ResultWord
  | [] => 0#64
  | p :: ps => p.setWidth 64 ||| (packPatterns ps <<< 8)

/-- The result word (30_encoding.md R39). -/
def Result.word (r : Result) : ResultWord := packPatterns r.patterns

/-- The word on the result port, if it has a value (10_state.md R23, 30_encoding.md R39). -/
def State.resultWord (s : State) : Option ResultWord := s.port.map Result.word

/-- The host reads the result port; while it has no value the read is a fault, never a value
(93_implementation_defined.md I17, 60_exceptions.md R76). -/
def State.readResult (s : State) : Host.Outcome ResultWord Fault Refusal :=
  match s.port with
  | some r => .next r.word
  | none => .fault .noResult

/-- The host issues one more input, after those already issued (60_exceptions.md R76, 20_memory.md R32). -/
def State.issue (s : State) (x : Input) : State := { s with inputs := s.inputs ++ [x] }

/-- Whether a pattern lights a segment: bit SEGMAP(x) is 1 (30_encoding.md R42, R43; 20_memory.md R27).
Names only: no rule of the machine computes with it. -/
def lights (c : Cfg) (p : Pattern) (x : Segment) : Bool := p.getLsbD (c.segmap.bit x).val

/-- The segments a pattern lights, in the order A to G, DP (30_encoding.md R43). -/
def litSegments (c : Cfg) (p : Pattern) : List Segment := Segment.all.filter (lights c p)

end Sys2Proof.Machine
end

