-- ==== Sys2Proof/Machine/Encoder.lean ====
section
/-! DEFINITION. The Segment Encoder's three operations DEC, LUT and HEX (40_segment_encoder.md R55 to R57). -/

namespace Sys2Proof.Machine

/-- DEC(n): `[ LUTF(res(n)) ]` (40_segment_encoder.md R55). -/
def execDec (n : Int) (s : State) : Host.Outcome State Fault Refusal := deliver s (.one (decPattern s.cfg n))

/-- LUT(r): `[ LUTF(r) ]`, no residue step (40_segment_encoder.md R56). -/
def execLut (r : Int) (s : State) : Host.Outcome State Fault Refusal := deliver s (.one (lutf s.cfg r))

/-- The pair HEX returns, in the order HEX_ORDER gives (40_segment_encoder.md R57, 00_scope.md R7). -/
def hexPair (c : Cfg) (b : BitVec 8) : Result :=
  match c.hexOrder with
  | .hiFirst => .two (hexLookup c (hiNibble b)) (hexLookup c (loNibble b))
  | .loFirst => .two (hexLookup c (loNibble b)) (hexLookup c (hiNibble b))

/-- HEX(b) (40_segment_encoder.md R57). -/
def execHex (b : BitVec 8) (s : State) : Host.Outcome State Fault Refusal := deliver s (hexPair s.cfg b)

end Sys2Proof.Machine
end

