-- ==== Sys2Proof/Machine/Formatter.lean ====
section
/-! DEFINITION. The Temperature Formatter FMT (41_frame_formatter.md R59), its pseudocode step for step. -/

namespace Sys2Proof.Machine

/-- What the scan over positions 4..7 carries from one position to the next: the quotient q and `sign_pending`
(41_frame_formatter.md R59, step 5). -/
structure Scan where
  q : Int
  signPending : Bool
  deriving DecidableEq, Repr

/-- The scan before position 4: `q = tdiv(u, 10)` with `u = tdiv(t, 10)`, and the sign tested on t itself
(41_frame_formatter.md R59). -/
def scanStart (t : Int) : Scan := { q := tdiv (tdiv t), signPending := decide (t < 0) }

/-- The glyph one position shows: a digit while q ≠ 0, else the pending sign marker, else a blank
(41_frame_formatter.md R59, step 5). -/
def scanGlyph (c : Cfg) (x : Scan) : Pattern :=
  if x.q ≠ 0 then decPattern c x.q else if x.signPending then c.fallback else blankGlyph

/-- What the next position sees (41_frame_formatter.md R59, step 5). -/
def scanNext (x : Scan) : Scan :=
  if x.q ≠ 0 then { x with q := tdiv x.q } else { x with signPending := false }

/-- The scan's values at position 4 + j (41_frame_formatter.md R61). -/
def scanAt (t : Int) : Nat → Scan
  | 0 => scanStart t
  | j + 1 => scanNext (scanAt t j)

/-- FMT(t): the eight elements f[0..7], position 0 (the rightmost) first (41_frame_formatter.md R59). -/
def fmtFrame (c : Cfg) (t : Int) : Vector Pattern 8 :=
  #v[c.glyphC,
     blankGlyph,
     decPattern c t,
     decPattern c (tdiv t) ||| c.dpMask,
     scanGlyph c (scanAt t 0),
     scanGlyph c (scanAt t 1),
     scanGlyph c (scanAt t 2),
     scanGlyph c (scanAt t 3)]

/-- FMT (41_frame_formatter.md R59). -/
def execFmt (t : Int) (s : State) : Host.Outcome State Fault Refusal := deliver s (.frame (fmtFrame s.cfg t))

end Sys2Proof.Machine
end

