-- ==== Sys2Proof/Machine/Dispatch.lean ====
section
/-! DEFINITION. One arm per constructor of Instr, one per row of spec/opcode_table.json. -/

namespace Sys2Proof.Machine

def exec (i : Instr) (s : State) : Host.Outcome State Fault Refusal :=
  match i with
  | .dec n => Sys2Proof.Machine.execDec n s
  | .hex b => Sys2Proof.Machine.execHex b s
  | .fmt t => Sys2Proof.Machine.execFmt t s
  | .lut r => Sys2Proof.Machine.execLut r s

end Sys2Proof.Machine
end

