-- ==== Sys2Proof/Machine/Flags.lean ====
section
/-! DEFINITION. SSD has no flags or condition codes (10_state.md R15).  The one sticky indication a run has is the
refusal mark of 60_exceptions.md R68, recorded here. -/

namespace Sys2Proof.Machine

/-- A refused request: no result on the port, an empty trace entry, and one more record in the mark, which is never
cleared (60_exceptions.md R68; the port's value: log entry 5). -/
def State.withRefusal (s : State) (r : RefusalReason) : State :=
  { s with port := none, mark := s.mark ++ [⟨r, s.trace.length + 1⟩], trace := s.trace ++ [none] }

/-- Whether the mark is set: "no refusal recorded" is its negation (60_exceptions.md R68). -/
def State.refusalRecorded (s : State) : Bool := !s.mark.isEmpty

end Sys2Proof.Machine
end

