-- ==== Sys2Proof/Machine/Fetch.lean ====
section
/-! DEFINITION. Taking one input of the host: decoding a request word and evaluating or refusing it, a reset, and a
request a reset cuts short (10_state.md R16, 60_exceptions.md R68, 70_reset_and_hazards.md R77). -/

namespace Sys2Proof.Machine

/-- Evaluating one request word: an accepted request runs, a refused one sets the mark and the block goes on
(30_encoding.md R40, 60_exceptions.md R67, R68). -/
def evaluateRequest (w : ReqWord) (s : State) : Host.Outcome State Fault Refusal :=
  match decode s.cfg.tempW (portWord s.cfg w) with
  | .accepted i => exec i s
  | .refused r => .next (s.withRefusal r)

/-- Taking one input.  A request cut by a reset gives no result and no trace entry (70_reset_and_hazards.md R77,
93_implementation_defined.md I18; log entry 6). -/
def takeInput (x : Input) (s : State) : Host.Outcome State Fault Refusal :=
  match x with
  | .request w => evaluateRequest w s
  | .reset => .next s.afterReset
  | .requestCutByReset _ => .next s.afterReset

/-- Taking the oldest input; with nothing issued the block waits, unchanged (70_reset_and_hazards.md R77;
log entry 8). -/
def takeNextInput (s : State) : Host.Outcome State Fault Refusal :=
  match s.inputs with
  | [] => .next s
  | x :: rest => takeInput x (s.withInputs rest)

end Sys2Proof.Machine
end

