-- ==== Sys2Proof/Machine/Step.lean ====
section
/-! DEFINITION. One step: under a well-formed configuration the block takes the oldest input the host has issued
(20_memory.md R32, 60_exceptions.md R69, 70_reset_and_hazards.md R83). -/

namespace Sys2Proof.Machine

/-- One step.  Under an ill-formed configuration no request is evaluated at all (60_exceptions.md R69;
log entry 10). -/
def step (s : State) : Host.Outcome State Fault Refusal :=
  if s.cfg.wf then takeNextInput s else .refused .illFormedConfig

/-- `s` with a request issued ahead of all others, so that the next step takes it: the low `nbits` bits of `w`, every
bit above 0.  The host issues requests (10_state.md R16; log entry 4). -/
def State.withFetchWord (s : State) (nbits w : Nat) : State :=
  { s with inputs := .request (BitVec.ofNat 72 (w % 2 ^ nbits)) :: s.inputs }

end Sys2Proof.Machine
end

