-- ==== Sys2Proof/Machine/Assembler.lean ====
section
/-! DEFINITION. The assembler syntax of 30_encoding.md R41: one request is written `MNEMONIC operand`. -/

namespace Sys2Proof.Machine

/-- The value of a digit character in base 10 or 16, if it is one.  Hex letters of both cases are taken
(log entry 7). -/
def digitValue (base : Nat) (ch : Char) : Option Nat :=
  let n := ch.toNat
  let v : Option Nat :=
    if 48 ≤ n ∧ n ≤ 57 then some (n - 48)
    else if 65 ≤ n ∧ n ≤ 70 then some (n - 55)
    else if 97 ≤ n ∧ n ≤ 102 then some (n - 87)
    else none
  v.filter (fun d => decide (d < base))

/-- The number a run of digits spells, most significant first, after `acc`. -/
def digitsValue (base : Nat) : Nat → List Char → Option Nat
  | acc, [] => some acc
  | acc, ch :: rest =>
    match digitValue base ch with
    | some d => digitsValue base (acc * base + d) rest
    | none => none

/-- A run of at least one digit. -/
def numeralValue (base : Nat) : List Char → Option Nat
  | [] => none
  | ch :: rest => digitsValue base 0 (ch :: rest)

/-- The operand: a decimal integer with an optional `-` sign, or a hex literal `0x..` (30_encoding.md R41). -/
def operandValue : List Char → Option Int
  | '0' :: 'x' :: rest => (numeralValue 16 rest).map (fun v : Nat => (v : Int))
  | '-' :: rest => (numeralValue 10 rest).map (fun v : Nat => -(v : Int))
  | text => (numeralValue 10 text).map (fun v : Nat => (v : Int))

/-- The mnemonics (30_encoding.md R41). -/
def mnemonicOp : List Char → Option Op
  | ['D', 'E', 'C'] => some .dec
  | ['H', 'E', 'X'] => some .hex
  | ['F', 'M', 'T'] => some .fmt
  | ['L', 'U', 'T'] => some .lut
  | _ => none

/-- The instruction of an operation and an operand value, if the value is in the operation's range: the signed range
of 30_encoding.md R36 for DEC, FMT and LUT, 0..255 for HEX (R41). -/
def instrOf (tempW : Nat) (o : Op) (v : Int) : Option Instr :=
  match o with
  | .dec => if inSignedRange tempW v then some (.dec v) else none
  | .hex => if 0 ≤ v ∧ v ≤ 255 then some (.hex (BitVec.ofInt 8 v)) else none
  | .fmt => if inSignedRange tempW v then some (.fmt v) else none
  | .lut => if inSignedRange tempW v then some (.lut v) else none

/-- Assembling one request: the mnemonic, one space, the operand; anything else is rejected (30_encoding.md R41;
log entry 7). -/
def assemble (tempW : Nat) (text : List Char) : Option (BitVec (tempW + 8)) :=
  match text with
  | m0 :: m1 :: m2 :: ' ' :: operand =>
    match mnemonicOp [m0, m1, m2], operandValue operand with
    | some o, some v => (instrOf tempW o v).map (encode tempW)
    | _, _ => none
  | _ => none

end Sys2Proof.Machine
end

