-- ==== Sys2Proof/Safety.lean ====
section
/-! DEFINITION. What counts as a good state of a run: the terms the statements use. -/

namespace Sys2Proof.Machine

/-- `n` steps, stopping at the first fault or refusal (20_memory.md R32): `Host.Core.run core`, spelled at this
machine's own types. -/
def runSteps : Nat → State → Host.Outcome State Fault Refusal
  | 0, s => .next s
  | n + 1, s =>
    match step s with
    | .next s' => runSteps n s'
    | .fault r => .fault r
    | .refused r => .refused r

/-- The numbers, counted from `k`, of the trace entries that hold no result. -/
def refusedNumbers : Nat → List (Option Result) → List Nat
  | _, [] => []
  | k, none :: rest => k :: refusedNumbers (k + 1) rest
  | k, some _ :: rest => refusedNumbers (k + 1) rest

/-- A result is one this configuration can show: only position 3 of a frame carries the decimal point, and it does
(40_segment_encoder.md R58 (g), 41_frame_formatter.md R60); lanes 0 and 1 are the constants of R65. -/
def Result.Shown (c : Cfg) : Result → Prop
  | .one p => p &&& c.dpMask = 0#8
  | .two p0 p1 => p0 &&& c.dpMask = 0#8 ∧ p1 &&& c.dpMask = 0#8
  | .frame f =>
    f[0] = c.glyphC ∧ f[1] = blankGlyph ∧ f[3] &&& c.dpMask = c.dpMask ∧
      ∀ k : Fin 8, k ≠ 3 → f[k] &&& c.dpMask = 0#8

/-- A request word that is on no line the port lacks: it fits TEMP_W + 8 bits (30_encoding.md R34). -/
def Input.Fits (c : Cfg) : Input → Prop
  | .request w => w.toNat < 2 ^ (c.tempW + 8)
  | .reset => True
  | .requestCutByReset w => w.toNat < 2 ^ (c.tempW + 8)

/-- The invariant of the machine. -/
structure State.Inv (s : State) : Prop where
  /-- The block is built with a well-formed configuration (60_exceptions.md R69). -/
  cfgWf : s.cfg.wf = true
  /-- The mark holds exactly the requests of the run that have no result, in order (60_exceptions.md R68). -/
  markIsRefusals : s.mark.map RefusalRecord.number = refusedNumbers 1 s.trace
  /-- What the port holds is the run's last result (20_memory.md R31, R32). -/
  portIsLast : ∀ r, s.port = some r → s.trace.getLast? = some (some r)
  /-- Every result of the run is one this configuration can show. -/
  traceShown : ∀ r, some r ∈ s.trace → r.Shown s.cfg
  /-- Every issued request word fits the port. -/
  inputsFit : ∀ x ∈ s.inputs, x.Fits s.cfg

/-- The result a machine built with `c` gives request `w` as the first of its life, if it gives one: what
00_scope.md R4 and R14 say every later evaluation of the same request gives too. -/
def freshResult (c : Cfg) (w : ReqWord) : Option Result :=
  match step ((State.resetOf c).withInputs [.request w]) with
  | .next t => t.port
  | .fault _ => none
  | .refused _ => none

/-- The request words among a list of inputs that are evaluated to their end, in order. -/
def evaluatedRequests : List Input → List ReqWord
  | [] => []
  | .request w :: rest => w :: evaluatedRequests rest
  | .reset :: rest => evaluatedRequests rest
  | .requestCutByReset _ :: rest => evaluatedRequests rest

end Sys2Proof.Machine
end

