-- ==== Sys2Proof/Certificates/Slice0/Obligations.lean ====
section
/-! DEFINITION. The statements for the provers.  The terms under `Sys2Proof.Claims` are written from the spec's rules
in closed form, independently of the machine's scan. -/

open Sys2Proof Sys2Proof.Machine

namespace Sys2Proof.Claims

/-- Instruction `i` at `s` completes with result `r` and changes nothing but the port and the trace: the
configuration, the inputs and the mark are those of `s`. -/
def Delivers (i : Instr) (s : State) (r : Result) : Prop :=
  exec i s = .next { s with port := some r, trace := s.trace ++ [some r] }

/-- `d_i = floor(|t| / 10^i) mod 10` (41_frame_formatter.md R64). -/
def placeDigit (t : Int) (i : Nat) : Nat := t.natAbs / 10 ^ i % 10

theorem placeDigit_lt (t : Int) (i : Nat) : placeDigit t i < 10 := Nat.mod_lt _ (by decide)

/-- The pattern of decimal place i of t: DIGIT[d_i], but for a negative t under TRUNCATED, where a non-zero digit
shows FALLBACK (40_segment_encoder.md R53, R54). -/
def placeGlyph (c : Cfg) (t : Int) (i : Nat) : Pattern :=
  if c.residueMode = .magnitude ∨ 0 ≤ t ∨ placeDigit t i = 0 then c.digit[placeDigit t i]'(placeDigit_lt t i)
  else c.fallback

/-- What frame position k of 4..7 shows: a digit exactly when |t| ≥ 10^(k−2), else the sign marker in the first such
position of a negative t, else a blank (41_frame_formatter.md R61, R62). -/
def upperGlyph (c : Cfg) (t : Int) (k : Nat) : Pattern :=
  if 10 ^ (k - 2) ≤ t.natAbs then placeGlyph c t (k - 2)
  else if t < 0 ∧ (k = 4 ∨ 10 ^ (k - 3) ≤ t.natAbs) then c.fallback
  else blankGlyph

/-- The whole frame in closed form, no scan (41_frame_formatter.md R61 to R65). -/
def closedFrame (c : Cfg) (t : Int) : Vector Pattern 8 :=
  #v[c.glyphC, blankGlyph, placeGlyph c t 0, placeGlyph c t 1 ||| c.dpMask,
     upperGlyph c t 4, upperGlyph c t 5, upperGlyph c t 6, upperGlyph c t 7]

/-- D is the number of decimal digits of m, with D = 1 for m ≤ 9 (41_frame_formatter.md R62). -/
def IsDigitCount (D m : Nat) : Prop := 1 ≤ D ∧ m < 10 ^ D ∧ (D = 1 ∨ 10 ^ (D - 1) ≤ m)

/-- `HEX[k]`: DIGIT below 10, HEXAF from 10 on (10_state.md R21). -/
def nibbleGlyph (c : Cfg) (k : Fin 16) : Pattern :=
  if h : k.val < 10 then c.digit[k.val] else c.hexaf[k.val - 10]'(by omega)

/-- The high nibble of a byte, by arithmetic. -/
def highOf (b : BitVec 8) : Fin 16 := ⟨b.toNat / 16, by omega⟩

/-- The low nibble of a byte, by arithmetic. -/
def lowOf (b : BitVec 8) : Fin 16 := ⟨b.toNat % 16, by omega⟩

/-- The two's-complement value of the W-bit number v (00_scope.md R5, R11). -/
def signedValue (W v : Nat) : Int := if v < 2 ^ (W - 1) then (v : Int) else (v : Int) - 2 ^ W

/-- The characters of a run of decimal digits. -/
def digitChars (ds : List (Fin 10)) : List Char := ds.map (fun d => Char.ofNat (48 + d.val))

/-- The number a run of decimal digits spells. -/
def digitsNumber (ds : List (Fin 10)) : Nat := ds.foldl (fun acc d => acc * 10 + d.val) 0

/-- One hex digit and whether its letter, if it has one, is a capital. -/
structure HexDigit where
  value : Fin 16
  capital : Bool
  deriving DecidableEq, Repr

/-- The character of a hex digit. -/
def HexDigit.char (d : HexDigit) : Char :=
  Char.ofNat (if d.value.val < 10 then 48 + d.value.val else if d.capital then 55 + d.value.val else 87 + d.value.val)

/-- The number a run of hex digits spells. -/
def hexNumber (hs : List HexDigit) : Nat := hs.foldl (fun acc d => acc * 16 + d.value.val) 0

/-- The text of a decimal operand (30_encoding.md R41). -/
def decimalText (neg : Bool) (ds : List (Fin 10)) : List Char := (if neg then ['-'] else []) ++ digitChars ds

/-- The value of a decimal operand. -/
def decimalValue (neg : Bool) (ds : List (Fin 10)) : Int := if neg then -(digitsNumber ds : Int) else (digitsNumber ds : Int)

/-- The text of a hex literal `0x..` (30_encoding.md R41). -/
def hexText (hs : List HexDigit) : List Char := ['0', 'x'] ++ hs.map HexDigit.char

/-- The two forms of operand of 30_encoding.md R41: `operand` is the text of the number v. -/
def Spells (operand : List Char) (v : Int) : Prop :=
  (∃ neg ds, ds ≠ [] ∧ operand = decimalText neg ds ∧ v = decimalValue neg ds) ∨
  (∃ hs, hs ≠ [] ∧ operand = hexText hs ∧ v = (hexNumber hs : Int))

/-- The mnemonic of an operation (30_encoding.md R41). -/
def mnemonicText : Op → List Char
  | .dec => ['D', 'E', 'C']
  | .hex => ['H', 'E', 'X']
  | .fmt => ['F', 'M', 'T']
  | .lut => ['L', 'U', 'T']

/-- The operand of an instruction as a number. -/
def operandNumber : Instr → Int
  | .dec n => n
  | .hex b => (b.toNat : Int)
  | .fmt t => t
  | .lut r => r

end Sys2Proof.Claims

open Sys2Proof.Claims

/-! ### Encoding -/

/-- 30_encoding.md R34 to R40: decoding the request word of a well-formed instruction gives it back, with every operand
at every value the encoding admits, at every TEMP_W. -/
def Obligations.DecodeOfEncodeIsTheInstruction : Prop :=
  ∀ (W : Nat) (i : Instr), 8 ≤ W → i.wf W = true → decode W (encode W i) = .accepted i

/-- 30_encoding.md R34 to R40, the other direction: an accepted word is the one word of the instruction it decodes to,
and that instruction's operand is in range. -/
def Obligations.AcceptedWordIsTheInstructionsOnlyWord : Prop :=
  ∀ (W : Nat) (req : BitVec (W + 8)) (i : Instr), 8 ≤ W → decode W req = .accepted i →
    i.wf W = true ∧ encode W i = req

/-- 30_encoding.md R38: the words refused, each with its reason, and no others; the reserved bits come first
(60_exceptions.md R70). -/
def Obligations.RefusedWordsAndTheirReasons : Prop :=
  ∀ (W : Nat) (req : BitVec (W + 8)), 8 ≤ W →
    (decode W req = .refused .reservedCtl ↔ req.toNat % 256 / 4 ≠ 0) ∧
    (decode W req = .refused .hexOperandRange ↔ req.toNat % 256 = 1 ∧ req.toNat / 2 ^ 16 ≠ 0)

/-- 30_encoding.md R35, R36: the low bits of the word select the operation; the bits above ctl are the two's-complement
operand, or, for HEX, a byte. -/
def Obligations.WordFieldsSelectOperationAndOperand : Prop :=
  ∀ (W : Nat) (req : BitVec (W + 8)), 8 ≤ W →
    (req.toNat % 256 = 0 → decode W req = .accepted (.dec (signedValue W (req.toNat / 256)))) ∧
    (req.toNat % 256 = 1 → req.toNat / 256 < 256 →
      decode W req = .accepted (.hex (BitVec.ofNat 8 (req.toNat / 256)))) ∧
    (req.toNat % 256 = 2 → decode W req = .accepted (.fmt (signedValue W (req.toNat / 256)))) ∧
    (req.toNat % 256 = 3 → decode W req = .accepted (.lut (signedValue W (req.toNat / 256))))

/-- Words of 95_test_vectors.md sections 2.2 to 2.7, one of each operation, decode to what they stand for. -/
def Obligations.WrittenOutWordsDecode : Prop :=
  decode 16 0xFFF100#24 = .accepted (.dec (-15)) ∧ decode 16 0x005A01#24 = .accepted (.hex 0x5A#8) ∧
  decode 16 0x00FD02#24 = .accepted (.fmt 253) ∧ decode 16 0x000A03#24 = .accepted (.lut 10) ∧
  decode 16 0x010005#24 = .refused .reservedCtl ∧ decode 16 0x010001#24 = .refused .hexOperandRange ∧
  decode 32 0xFFFE1DC002#40 = .accepted (.fmt (-123456))

/-- 30_encoding.md R41: a decimal operand, with or without its sign, assembles to the request word exactly when it is
in the operation's range, and HEX takes 0 to 255.  The exact text is the model's choice, log entry 7: one space, capital
mnemonics, leading zeros, and `-0` for 0, with HEX too. -/
def Obligations.AssemblerAcceptsExactlyTheRange : Prop :=
  ∀ (W : Nat) (ds : List (Fin 10)) (neg : Bool), ds ≠ [] → 8 ≤ W →
    let v := decimalValue neg ds
    let operand := decimalText neg ds
    let inRange := -(2 ^ (W - 1) : Int) ≤ v ∧ v < 2 ^ (W - 1)
    (assemble W (['D', 'E', 'C', ' '] ++ operand) = if inRange then some (encode W (.dec v)) else none) ∧
    (assemble W (['F', 'M', 'T', ' '] ++ operand) = if inRange then some (encode W (.fmt v)) else none) ∧
    (assemble W (['L', 'U', 'T', ' '] ++ operand) = if inRange then some (encode W (.lut v)) else none) ∧
    (assemble W (['H', 'E', 'X', ' '] ++ operand) =
      if 0 ≤ v ∧ v ≤ 255 then some (encode W (.hex (BitVec.ofNat 8 (digitsNumber ds)))) else none)

/-- 30_encoding.md R41: a hex literal `0x..` assembles to the request word exactly when the number it spells is in the
operation's range, and HEX takes 0 to 255.  That the letters are of either case and the number is not wrapped into the
signed range is the model's choice, log entry 7, as are the one space and the capital mnemonics. -/
def Obligations.AssemblerAcceptsHexLiteralsInRange : Prop :=
  ∀ (W : Nat) (hs : List HexDigit), hs ≠ [] → 8 ≤ W →
    let m := hexNumber hs
    (assemble W (['D', 'E', 'C', ' '] ++ hexText hs) = if m < 2 ^ (W - 1) then some (encode W (.dec m)) else none) ∧
    (assemble W (['F', 'M', 'T', ' '] ++ hexText hs) = if m < 2 ^ (W - 1) then some (encode W (.fmt m)) else none) ∧
    (assemble W (['L', 'U', 'T', ' '] ++ hexText hs) = if m < 2 ^ (W - 1) then some (encode W (.lut m)) else none) ∧
    (assemble W (['H', 'E', 'X', ' '] ++ hexText hs) =
      if m ≤ 255 then some (encode W (.hex (BitVec.ofNat 8 m))) else none)

/-- 30_encoding.md R41: an assembler rejects anything else: a text that assembles is one of the four mnemonics, a space
and an operand of one of the two forms whose number is the instruction's operand, in range, and its word is that
instruction's.  That a text with other spacing or letter case is no such text is the model's choice, log entry 7. -/
def Obligations.AssemblerRejectsEveryOtherText : Prop :=
  ∀ (W : Nat) (text : List Char) (w : BitVec (W + 8)), assemble W text = some w →
    ∃ (i : Instr) (operand : List Char), text = mnemonicText i.op ++ ' ' :: operand ∧
      Spells operand (operandNumber i) ∧ i.wf W = true ∧ w = encode W i

/-! ### The step -/

/-- 20_memory.md R32, 10_state.md R16: when the oldest input is a request word that decodes to `i`, the step is `exec i`
at the state with that input taken. -/
def Obligations.StepRunsTheDecodedRequest : Prop :=
  ∀ (s : State) (w : ReqWord) (rest : List Input) (i : Instr),
    s.cfg.wf = true → s.inputs = .request w :: rest →
    decode s.cfg.tempW (w.setWidth (s.cfg.tempW + 8)) = .accepted i →
    step s = exec i { s with inputs := rest }

/-- A request the host issues ahead of all others is the one the next step runs, at the very state it was issued in
(10_state.md R16; log entry 4). -/
def Obligations.RequestPlacedAheadRunsNext : Prop :=
  ∀ (s : State) (nbits w : Nat) (i : Instr), s.cfg.wf = true →
    decode s.cfg.tempW ((BitVec.ofNat 72 (w % 2 ^ nbits)).setWidth (s.cfg.tempW + 8)) = .accepted i →
    step (s.withFetchWord nbits w) = exec i s

/-- 60_exceptions.md R68: a refused request gives no result, is recorded with its reason, and the block goes on.  That
the port then has no value, and the trace an entry for it, is log entry 5. -/
def Obligations.RefusedRequestIsRecordedAndTheBlockGoesOn : Prop :=
  ∀ (s : State) (w : ReqWord) (rest : List Input) (r : RefusalReason),
    s.cfg.wf = true → s.inputs = .request w :: rest →
    decode s.cfg.tempW (w.setWidth (s.cfg.tempW + 8)) = .refused r →
    step s = .next { s with
      inputs := rest, port := none, mark := s.mark ++ [⟨r, s.trace.length + 1⟩], trace := s.trace ++ [none] }

/-- 60_exceptions.md R68: the mark is kept for the rest of the run and never cleared, whatever the inputs, a reset
among them (log entry 6). -/
def Obligations.RefusalMarkIsNeverCleared : Prop :=
  ∀ (n : Nat) (s s' : State), runSteps n s = .next s' → ∃ more, s'.mark = s.mark ++ more

/-- 60_exceptions.md R69: under a configuration that is not well formed no request is evaluated at all. -/
def Obligations.IllFormedConfigurationEvaluatesNothing : Prop :=
  ∀ s : State, s.cfg.wf = false → step s = .refused .illFormedConfig

/-- 60_exceptions.md R67: under a well-formed configuration no step stops, and an accepted request returns a result of
its operation's length.  That a step over a refused request goes on is 60_exceptions.md R68 (its next state: log entry
5), over a reset 70_reset_and_hazards.md R77 (log entry 6), and with no inputs the model's reading of a wait (log entry
8). -/
def Obligations.EveryAcceptedRequestReturnsAResult : Prop :=
  ∀ s : State, s.cfg.wf = true →
    (∃ s', step s = .next s') ∧
    ∀ (w : ReqWord) (rest : List Input) (i : Instr), s.inputs = .request w :: rest →
      decode s.cfg.tempW (w.setWidth (s.cfg.tempW + 8)) = .accepted i →
      ∃ s' r, step s = .next s' ∧ s'.port = some r ∧ r.patterns.length = i.op.resultCount

/-- 70_reset_and_hazards.md R77, 10_state.md R23: a reset leaves every table, and a request it cuts gives no result.
That the rest of the run's record stays as it is, is log entries 5 and 6. -/
def Obligations.ResetKeepsTablesAndEmptiesThePort : Prop :=
  ∀ (s : State) (w : ReqWord) (rest : List Input), s.cfg.wf = true →
    (s.inputs = .reset :: rest → step s = .next { s with inputs := rest, port := none }) ∧
    (s.inputs = .requestCutByReset w :: rest → step s = .next { s with inputs := rest, port := none })

/-- 70_reset_and_hazards.md R77: with nothing issued the block waits; that a waiting step is a step that changes nothing
is log entry 8. -/
def Obligations.BlockWaitsWhileNothingIsIssued : Prop :=
  ∀ s : State, s.cfg.wf = true → s.inputs = [] → step s = .next s

/-- 10_state.md R23: straight after reset, whatever the block is built with, the tables are the parameters and the port
has no value; reading it then is a fault and not a value (93_implementation_defined.md I17). -/
def Obligations.PortHasNoValueUntilARequestIsEvaluated : Prop :=
  ∀ c : Cfg, (State.resetOf c).cfg = c ∧ (State.resetOf c).resultWord = none ∧
    (State.resetOf c).readResult = .fault .noResult ∧
    ∀ i : Instr, ∃ t r, exec i (State.resetOf c) = .next t ∧ t.port = some r ∧ t.readResult = .next (Result.word r)

/-! ### The Segment Encoder -/

/-- 40_segment_encoder.md R53 to R55: DEC shows the least-significant decimal digit under either RESIDUE_MODE, and
changes nothing but the port and the trace. -/
def Obligations.DecShowsTheLeastSignificantDigit : Prop :=
  ∀ (n : Int) (s : State), Delivers (.dec n) s (.one (placeGlyph s.cfg n 0))

/-- 40_segment_encoder.md R54: a residue in 0..9 gives its DIGIT entry and any other gives FALLBACK, as LUT shows
(R56). -/
def Obligations.LookupFallsBackOutsideTheDigits : Prop :=
  ∀ (r : Int) (s : State),
    (∀ d : Fin 10, r = d.val → Delivers (.lut r) s (.one s.cfg.digit[d])) ∧
    (r < 0 ∨ 9 < r → Delivers (.lut r) s (.one s.cfg.fallback))

/-- 40_segment_encoder.md R57, 10_state.md R21, 00_scope.md R7: HEX gives the patterns of the two nibbles in the order
HEX_ORDER names. -/
def Obligations.HexShowsBothNibblesInOrder : Prop :=
  ∀ (b : BitVec 8) (s : State),
    (s.cfg.hexOrder = .hiFirst →
      Delivers (.hex b) s (.two (nibbleGlyph s.cfg (highOf b)) (nibbleGlyph s.cfg (lowOf b)))) ∧
    (s.cfg.hexOrder = .loFirst →
      Delivers (.hex b) s (.two (nibbleGlyph s.cfg (lowOf b)) (nibbleGlyph s.cfg (highOf b))))

/-- 40_segment_encoder.md R58 (a) to (g): the encoder's properties under every well-formed configuration. -/
def Obligations.EncoderPropertiesHold : Prop :=
  ∀ s : State, s.cfg.wf = true →
    (∀ i : Instr, ∃ r, ∀ s' : State, s'.cfg = s.cfg → Delivers i s' r) ∧
    (∀ n : Int, 0 ≤ n → Delivers (.dec n) s (.one (s.cfg.digit[placeDigit n 0]'(placeDigit_lt n 0)))) ∧
    (s.cfg.residueMode = .magnitude → ∀ n : Int, ¬ Delivers (.dec n) s (.one s.cfg.fallback)) ∧
    (s.cfg.residueMode = .truncated →
      ∀ n : Int, Delivers (.dec n) s (.one s.cfg.fallback) ↔ n < 0 ∧ ¬ (10 : Int) ∣ n) ∧
    (∀ r : Int, Delivers (.lut r) s (.one s.cfg.fallback) ↔ r < 0 ∨ 9 < r) ∧
    (∀ (m n : Fin 10) (p : Pattern), Delivers (.dec m.val) s (.one p) →
      p ≠ s.cfg.fallback ∧ (Delivers (.dec n.val) s (.one p) → m = n)) ∧
    (∀ (n : Int) (p : Pattern), Delivers (.dec n) s (.one p) ∨ Delivers (.lut n) s (.one p) →
      p &&& s.cfg.dpMask = 0#8) ∧
    (∀ (b : BitVec 8) (p q : Pattern), Delivers (.hex b) s (.two p q) →
      p &&& s.cfg.dpMask = 0#8 ∧ q &&& s.cfg.dpMask = 0#8)

/-- 30_encoding.md R49, 92_eei_decisions.md D8: a hex dump can be read back: two bytes with the same result are the
same byte. -/
def Obligations.HexDumpCanBeReadBack : Prop :=
  ∀ (s : State) (b b' : BitVec 8) (r : Result), s.cfg.wf = true →
    Delivers (.hex b) s r → Delivers (.hex b') s r → b = b'

/-- 00_scope.md R6: the two values of RESIDUE_MODE give the same DEC and FMT results for every operand that is not
negative. -/
def Obligations.ResidueModesAgreeOffTheNegatives : Prop :=
  ∀ (s s' : State) (m : ResidueMode) (n : Int), 0 ≤ n → s'.cfg = { s.cfg with residueMode := m } →
    ∃ p f, Delivers (.dec n) s (.one p) ∧ Delivers (.dec n) s' (.one p) ∧
      Delivers (.fmt n) s (.frame f) ∧ Delivers (.fmt n) s' (.frame f)

/-! ### The Temperature Formatter -/

/-- 41_frame_formatter.md R59 against R61 to R65: the scan of the algorithm gives exactly the frame of the closed form,
for every integer operand, every configuration and both residue modes, and changes nothing but the port and the
trace. -/
def Obligations.FmtScanGivesTheClosedFrame : Prop :=
  ∀ (t : Int) (s : State), Delivers (.fmt t) s (.frame (closedFrame s.cfg t))

/-- 41_frame_formatter.md R60: position 3 carries the radix point and no other position does. -/
def Obligations.OnlyTheUnitsPositionCarriesThePoint : Prop :=
  ∀ (t : Int) (s : State), s.cfg.wf = true → ∃ f, Delivers (.fmt t) s (.frame f) ∧
    f[3] &&& s.cfg.dpMask = s.cfg.dpMask ∧ ∀ k : Fin 8, k ≠ 3 → f[k] &&& s.cfg.dpMask = 0#8

/-- 41_frame_formatter.md R61: the quotient tested at position k = 4 + j, and where a digit is shown. -/
def Obligations.QuotientChainIsTheTruncatedMagnitude : Prop :=
  ∀ t : Int, (scanAt t 0).q = t.tdiv 100 ∧
    ∀ j : Nat, (scanAt t (j + 1)).q = (scanAt t j).q.tdiv 10 ∧
      (scanAt t j).q.natAbs = t.natAbs / 10 ^ (j + 2) ∧
      ((scanAt t j).q = 0 ∨ (scanAt t j).q.sign = t.sign) ∧
      ((scanAt t j).q = 0 → ∀ m, (scanAt t (j + m)).q = 0) ∧
      ∀ c : Cfg, (10 ^ (j + 2) ≤ t.natAbs → scanGlyph c (scanAt t j) = decPattern c (scanAt t j).q) ∧
        (t.natAbs < 10 ^ (j + 2) →
          scanGlyph c (scanAt t j) = c.fallback ∨ scanGlyph c (scanAt t j) = blankGlyph) ∧
        ∀ s : State, ∃ f, Delivers (.fmt t) s (.frame f) ∧
          ∀ k : Fin 8, k.val = 4 + j → f[k] = scanGlyph s.cfg (scanAt t j)

/-- 41_frame_formatter.md R62: where the sign marker stands, and when there is none. -/
def Obligations.SignMarkerStandsAboveTheDigits : Prop :=
  ∀ (t : Int) (s : State), s.cfg.wf = true → ∃ f, Delivers (.fmt t) s (.frame f) ∧
    (t < 0 → t.natAbs < 10 ^ 5 → ∀ D : Nat, IsDigitCount D t.natAbs → ∀ p : Fin 8, p.val = max 4 (D + 2) →
      f[p] = s.cfg.fallback ∧ (∀ k : Fin 8, p < k → f[k] = blankGlyph) ∧
      (s.cfg.residueMode = .magnitude → ∀ k : Fin 8, 4 ≤ k.val → k ≠ p → f[k] ≠ s.cfg.fallback)) ∧
    (0 ≤ t → ∀ k : Fin 8, 4 ≤ k.val → t.natAbs < 10 ^ (k.val - 2) → f[k] = blankGlyph) ∧
    (t < 0 → 10 ^ 5 ≤ t.natAbs →
      (∀ k : Fin 8, 4 ≤ k.val → f[k] = placeGlyph s.cfg t (k.val - 2)) ∧
      (s.cfg.residueMode = .magnitude → ∀ k : Fin 8, 4 ≤ k.val → f[k] ≠ s.cfg.fallback))

/-- 41_frame_formatter.md R63: digits at place 6 and above are not shown: of values that fill every position, those
equal below 10^6 show the same frame, and the sign is not shown. -/
def Obligations.DigitsBeyondPositionSevenAreLost : Prop :=
  ∀ (t t' : Int) (s : State), s.cfg.residueMode = .magnitude → 10 ^ 5 ≤ t.natAbs → 10 ^ 5 ≤ t'.natAbs →
    t.natAbs % 10 ^ 6 = t'.natAbs % 10 ^ 6 →
    ∃ f, Delivers (.fmt t) s (.frame f) ∧ Delivers (.fmt t') s (.frame f)

/-- 41_frame_formatter.md R63: at TEMP_W = 16 the operand is below 10^5, so every frame shows every digit of it, a blank
in each position above them of an operand that is not negative, and the sign marker right above them of a negative
one. -/
def Obligations.DefaultWidthFramesAreComplete : Prop :=
  ∀ (t : Int) (s : State), s.cfg.wf = true → s.cfg.tempW = 16 → (Instr.fmt t).wf s.cfg.tempW = true →
    t.natAbs < 10 ^ 5 ∧ (∀ i, 5 ≤ i → placeDigit t i = 0) ∧ ∃ f, Delivers (.fmt t) s (.frame f) ∧
      f[2] = placeGlyph s.cfg t 0 ∧ f[3] = placeGlyph s.cfg t 1 ||| s.cfg.dpMask ∧
      (∀ k : Fin 8, 4 ≤ k.val → 10 ^ (k.val - 2) ≤ t.natAbs → f[k] = placeGlyph s.cfg t (k.val - 2)) ∧
      (0 ≤ t → ∀ k : Fin 8, 4 ≤ k.val → t.natAbs < 10 ^ (k.val - 2) → f[k] = blankGlyph) ∧
      (t < 0 → ∃ p : Fin 8, 4 ≤ p.val ∧ f[p] = s.cfg.fallback ∧
        ∀ k : Fin 8, 4 ≤ k.val → (k < p ↔ 10 ^ (k.val - 2) ≤ t.natAbs))

/-- 41_frame_formatter.md R64: below 10^5 the frame spells the temperature, so two temperatures with the same frame are
the same.  The rules forbid no DIGIT entry to equal BLANK; without the premise that no leading digit is dark, the
display could not be read (NOTES.md). -/
def Obligations.FramesReadBackUniquely : Prop :=
  ∀ (t t' : Int) (s : State) (r : Result), s.cfg.wf = true → s.cfg.residueMode = .magnitude →
    (∀ d : Fin 10, d ≠ 0 → s.cfg.digit[d] ≠ blankGlyph) →
    t.natAbs < 10 ^ 5 → t'.natAbs < 10 ^ 5 →
    Delivers (.fmt t) s r → Delivers (.fmt t') s r → t = t'

/-- 41_frame_formatter.md R66: the document's three frame properties under MAGNITUDE, and the frame of −15 under
TRUNCATED, over any configuration. -/
def Obligations.SourceFramePropertiesHold : Prop :=
  ∀ s : State,
    (s.cfg.residueMode = .magnitude →
      Delivers (.fmt 0) s (.frame #v[s.cfg.glyphC, blankGlyph, s.cfg.digit[0], s.cfg.digit[0] ||| s.cfg.dpMask,
        blankGlyph, blankGlyph, blankGlyph, blankGlyph]) ∧
      Delivers (.fmt 253) s (.frame #v[s.cfg.glyphC, blankGlyph, s.cfg.digit[3], s.cfg.digit[5] ||| s.cfg.dpMask,
        s.cfg.digit[2], blankGlyph, blankGlyph, blankGlyph]) ∧
      Delivers (.fmt (-15)) s (.frame #v[s.cfg.glyphC, blankGlyph, s.cfg.digit[5], s.cfg.digit[1] ||| s.cfg.dpMask,
        s.cfg.fallback, blankGlyph, blankGlyph, blankGlyph])) ∧
    (s.cfg.residueMode = .truncated →
      Delivers (.fmt (-15)) s (.frame #v[s.cfg.glyphC, blankGlyph, s.cfg.fallback, s.cfg.fallback ||| s.cfg.dpMask,
        s.cfg.fallback, blankGlyph, blankGlyph, blankGlyph]))

/-! ### Results, segments and the tables -/

/-- 30_encoding.md R39: the count is fixed by the operation, element i is in bits [8i+7:8i], the bits above the last
element are 0, and a refused request produces no result word.  That no earlier result word stands on the port after it
is the model's reading, log entry 5. -/
def Obligations.ResultWordPacksTheElements : Prop :=
  (∀ (i : Instr) (s : State), ∃ r, Delivers i s r ∧ r.patterns.length = i.op.resultCount ∧
    ∀ k : Nat, r.word.extractLsb' (8 * k) 8 = (r.patterns[k]?).getD 0#8) ∧
  (∀ (s t : State) (w : ReqWord) (rest : List Input) (r : RefusalReason), s.inputs = .request w :: rest →
    decode s.cfg.tempW (w.setWidth (s.cfg.tempW + 8)) = .refused r → step s = .next t → t.resultWord = none)

/-- 30_encoding.md R42, R48, 90_conflicts.md C1: the fallback lights exactly one segment, which is not the decimal
point, and the blank lights none. -/
def Obligations.FallbackLightsOneSegmentBlankLightsNone : Prop :=
  ∀ c : Cfg, c.wf = true →
    (∃ x : Segment, x ≠ .dp ∧ litSegments c c.fallback = [x]) ∧ litSegments c blankGlyph = []

/-- 41_frame_formatter.md R60 read through SEGMAP (30_encoding.md R43): the decimal-point segment of a frame is lit at
position 3 and nowhere else. -/
def Obligations.PointSegmentIsLitAtTheUnitsPositionOnly : Prop :=
  ∀ (t : Int) (s : State), s.cfg.wf = true → ∃ f, Delivers (.fmt t) s (.frame f) ∧
    ∀ k : Fin 8, lights s.cfg f[k] .dp = true ↔ k = 3

/-- 10_state.md R17: the configuration record, and with it every table, does not change between requests, in any run of
any length. -/
def Obligations.ConfigurationNeverChanges : Prop :=
  ∀ (n : Nat) (s s' : State), runSteps n s = .next s' → s'.cfg = s.cfg

/-- 10_state.md R15, R17: DEC, HEX, FMT and LUT leave the configuration, the inputs and the mark, keep every earlier
entry of the trace, and add the port's new value to it. -/
def Obligations.OperationsChangeOnlyPortAndTrace : Prop :=
  ∀ (i : Instr) (s : State), ∃ t r, exec i s = .next t ∧
    t.cfg = s.cfg ∧ t.inputs = s.inputs ∧ t.mark = s.mark ∧ t.port = some r ∧ t.trace = s.trace ++ [some r]

/-! ### Whole-machine rules -/

/-- 00_scope.md R4, 20_memory.md R32: the result of a request depends only on the request and the configuration: two
machines in any states built alike give one accepted request the same result.  That after a refused request both
ports have no value is the model's reading, log entry 5. -/
def Obligations.ResultDependsOnlyOnRequestAndConfiguration : Prop :=
  ∀ (s₁ s₂ : State) (w : ReqWord) (rest₁ rest₂ : List Input), s₁.cfg.wf = true → s₂.cfg = s₁.cfg →
    s₁.inputs = .request w :: rest₁ → s₂.inputs = .request w :: rest₂ →
    ∃ t₁ t₂, step s₁ = .next t₁ ∧ step s₂ = .next t₂ ∧ t₁.port = t₂.port ∧ t₁.resultWord = t₂.resultWord

/-- 00_scope.md R14, 20_memory.md R31, R32: a run over any inputs, resets among them, ends with all taken, and its trace
is, request by request, what a machine fresh from reset gives that request; a refused request has an empty entry (log
entry 5), and a request cut by a reset has none (log entry 6). -/
def Obligations.RunEvaluatesEachRequestAsAFreshMachine : Prop :=
  ∀ s : State, s.cfg.wf = true →
    ∃ s', runSteps s.inputs.length s = .next s' ∧ s'.inputs = [] ∧ s'.cfg = s.cfg ∧
      s'.trace = s.trace ++ (evaluatedRequests s.inputs).map (freshResult s.cfg)

/-- The invariant holds right after reset, of the machine as built and of one built with any well-formed
configuration (10_state.md R23). -/
def Obligations.RunRecordIsGoodAtReset : Prop :=
  State.reset.Inv ∧ ∀ c : Cfg, c.wf = true → (State.resetOf c).Inv

/-- Every step keeps the invariant, from every state that meets it: the mark holds exactly the requests without a
result, the port is the run's last result, every result is one the tables can show, with the point at position 3
alone (60_exceptions.md R68, 41_frame_formatter.md R60, 40_segment_encoder.md R58; the record's form is log entries 5
and 6). -/
def Obligations.EveryStepKeepsTheRunRecord : Prop :=
  ∀ s s' : State, s.Inv → step s = .next s' → s'.Inv

/-- 60_exceptions.md R68 (the trace's empty entry is log entry 5): a run from a good state ends with its mark set exactly when some evaluated request of it has
no result, so a run with "no refusal recorded" has a result for every request. -/
def Obligations.MarkIsSetExactlyWhenARequestHasNoResult : Prop :=
  ∀ (n : Nat) (s s' : State), s.Inv → runSteps n s = .next s' → (s'.refusalRecorded = true ↔ none ∈ s'.trace)

/-- 20_memory.md R32 over the input list of log entry 4: an input issued after others is taken after them: when all earlier ones are taken the machine is
in the state it would have reached without it, with that input next. -/
def Obligations.InputsAreTakenInIssueOrder : Prop :=
  ∀ (s s' : State) (x : Input), runSteps s.inputs.length s = .next s' →
    runSteps s.inputs.length (s.issue x) = .next (s'.issue x) ∧ (s'.issue x).inputs = [x]
end

