-- ==== Sys2Proof/Laws/Config.lean ====
section
/-! SUPPORT. What a well-formed configuration gives (30_encoding.md R44 to R52), one fact a lemma. -/

namespace Sys2Proof

/-- 30_encoding.md R44 holds of every configuration: DP_MASK is one bit by definition. -/
theorem popcount_dpMask (c : Cfg) : popcount c.dpMask = 1 := by
  have h : ∀ i : Fin 8, popcount (1#8 <<< i.val) = 1 := by decide
  exact h c.segmap.dp

theorem Cfg.wf_iff (c : Cfg) : c.wf = true ↔ c.widthOk = true ∧ c.segmapOk = true ∧ c.digitOk = true ∧
    c.glyphCOk = true ∧ c.fallbackOk = true ∧ c.hexOk = true := by
  simp [Cfg.wf, and_assoc]

theorem Cfg.wf_width {c : Cfg} (h : c.wf = true) : 8 ≤ c.tempW ∧ c.tempW ≤ 64 := by
  simpa [Cfg.widthOk] using (c.wf_iff.1 h).1

/-- 30_encoding.md R45 (b): no digit pattern carries the point. -/
theorem Cfg.wf_digit_dp {c : Cfg} (h : c.wf = true) (i : Nat) (hi : i < 10) : c.digit[i] &&& c.dpMask = 0#8 := by
  have h1 := (c.wf_iff.1 h).2.2.1
  simp only [Cfg.digitOk, Bool.and_eq_true, List.all_eq_true, Cfg.dpClear, decide_eq_true_eq] at h1
  exact h1.2 _ (by simp)

/-- 30_encoding.md R45 (a): the digit patterns are distinct. -/
theorem Cfg.wf_digit_inj {c : Cfg} (h : c.wf = true) (i j : Nat) (hi : i < 10) (hj : j < 10)
    (he : c.digit[i] = c.digit[j]) : i = j := by
  have h1 := (c.wf_iff.1 h).2.2.1
  simp only [Cfg.digitOk, Bool.and_eq_true, decide_eq_true_eq] at h1
  exact (List.Nodup.getElem_inj_iff h1.1 (hi := by simpa using hi) (hj := by simpa using hj)).1 (by simpa using he)

/-- 30_encoding.md R46. -/
theorem Cfg.wf_glyphC_dp {c : Cfg} (h : c.wf = true) : c.glyphC &&& c.dpMask = 0#8 := by
  simpa [Cfg.glyphCOk, Cfg.dpClear] using (c.wf_iff.1 h).2.2.2.1

/-- 30_encoding.md R48 (a). -/
theorem Cfg.wf_fallback {c : Cfg} (h : c.wf = true) : popcount c.fallback = 1 ∧ c.fallback &&& c.dpMask = 0#8 := by
  have h1 := (c.wf_iff.1 h).2.2.2.2.1
  simp only [Cfg.fallbackOk, Cfg.dpClear, Bool.and_eq_true, decide_eq_true_eq] at h1
  exact h1.1

/-- 30_encoding.md R48 (b): FALLBACK is no digit pattern. -/
theorem Cfg.wf_digit_ne_fallback {c : Cfg} (h : c.wf = true) (i : Nat) (hi : i < 10) : c.digit[i] ≠ c.fallback := by
  have h1 := (c.wf_iff.1 h).2.2.2.2.1
  simp only [Cfg.fallbackOk, Bool.and_eq_true, List.all_eq_true, decide_eq_true_eq] at h1
  exact h1.2 _ (by simp)

/-- 30_encoding.md R48: FALLBACK is not BLANK. -/
theorem Cfg.wf_fallback_ne_blank {c : Cfg} (h : c.wf = true) : c.fallback ≠ blankGlyph := by
  intro he
  have := (Cfg.wf_fallback h).1
  rw [he] at this
  exact absurd this (by decide)

/-- 30_encoding.md R49 (a). -/
theorem Cfg.wf_hexaf_dp {c : Cfg} (h : c.wf = true) (i : Nat) (hi : i < 6) : c.hexaf[i] &&& c.dpMask = 0#8 := by
  have h1 := (c.wf_iff.1 h).2.2.2.2.2
  simp only [Cfg.hexOk, Bool.and_eq_true, List.all_eq_true, Cfg.dpClear, decide_eq_true_eq] at h1
  exact h1.1 _ (by simp)

/-- 30_encoding.md R49 (b): the 16 HEX patterns are distinct. -/
theorem Cfg.wf_hexTable_inj {c : Cfg} (h : c.wf = true) (i j : Nat) (hi : i < 16) (hj : j < 16)
    (he : c.hexTable[i] = c.hexTable[j]) : i = j := by
  have h1 := (c.wf_iff.1 h).2.2.2.2.2
  simp only [Cfg.hexOk, Bool.and_eq_true, decide_eq_true_eq] at h1
  exact (List.Nodup.getElem_inj_iff h1.2 (hi := by simpa using hi) (hj := by simpa using hj)).1 (by simpa using he)

/-- 10_state.md R21: HEX entries 0 to 9 are DIGIT's. -/
theorem Cfg.hexTable_digit (c : Cfg) (i : Nat) (hi : i < 10) : c.hexTable[i] = c.digit[i] := by
  exact Vector.getElem_append_left (xs := c.digit) (ys := c.hexaf) hi

/-- 10_state.md R21: HEX entries 10 to 15 are HEXAF's. -/
theorem Cfg.hexTable_hexaf (c : Cfg) (i : Nat) (hi : i < 16) (h : ¬ i < 10) : c.hexTable[i] = c.hexaf[i - 10] := by
  exact Vector.getElem_append_right (xs := c.digit) (ys := c.hexaf) hi (by omega)

/-- No HEX entry carries the point (30_encoding.md R45, R49). -/
theorem Cfg.wf_hexTable_dp {c : Cfg} (h : c.wf = true) (i : Nat) (hi : i < 16) : c.hexTable[i] &&& c.dpMask = 0#8 := by
  by_cases h10 : i < 10
  · rw [c.hexTable_digit i h10]; exact Cfg.wf_digit_dp h i h10
  · rw [c.hexTable_hexaf i hi h10]; exact Cfg.wf_hexaf_dp h _ (by omega)

end Sys2Proof
end

