-- ==== Sys2Proof/Laws/Operands.lean ====
section
/-! SUPPORT. What the arithmetic of 00_scope.md R11 and the table reads of 40_segment_encoder.md R53, R54 do. -/

namespace Sys2Proof.Machine

/-- `|tdiv(a, 10)| = floor(|a| / 10)` (00_scope.md R11). -/
@[simp] theorem natAbs_tdiv (a : Int) : (tdiv a).natAbs = a.natAbs / 10 := by
  rw [tdiv, Int.natAbs_mul, Int.natAbs_natCast]
  rcases eq_or_ne a 0 with rfl | h
  · rfl
  · rw [Int.natAbs_sign_of_ne_zero h, one_mul]

/-- The quotient of 00_scope.md R11 is the library's truncating division. -/
theorem tdiv_eq_int_tdiv (a : Int) : tdiv a = a.tdiv 10 := by
  obtain ⟨m, rfl | rfl⟩ := Int.eq_nat_or_neg a
  · rcases Nat.eq_zero_or_pos m with rfl | h
    · rfl
    · rw [tdiv, Int.natAbs_natCast, Int.sign_eq_one_of_pos (by omega), one_mul]; rfl
  · rcases Nat.eq_zero_or_pos m with rfl | h
    · rfl
    · rw [tdiv, Int.natAbs_neg, Int.natAbs_natCast, Int.sign_eq_neg_one_of_neg (by omega), Int.neg_tdiv,
        neg_one_mul]; rfl

/-- The remainder of 00_scope.md R11 is the library's remainder with the sign of the dividend. -/
theorem trem_eq_int_tmod (a : Int) : trem a = a.tmod 10 := by
  have := Int.mul_tdiv_add_tmod a 10
  simp only [trem, tdiv_eq_int_tdiv]; omega

/-- LUTF at a digit reads its DIGIT entry (40_segment_encoder.md R54). -/
theorem lutf_of_digit (c : Cfg) (d : Nat) (h : d < 10) : lutf c (d : Int) = c.digit[d] := by
  have : (0 : Int) ≤ d ∧ (d : Int) ≤ 9 := by omega
  simp [lutf, this]

/-- LUTF elsewhere is FALLBACK (40_segment_encoder.md R54). -/
theorem lutf_of_not_digit (c : Cfg) (r : Int) (h : r < 0 ∨ 9 < r) : lutf c r = c.fallback := by
  have : ¬ (0 ≤ r ∧ r ≤ 9) := by omega
  simp only [lutf, this, dite_false]

/-- Under MAGNITUDE the residue is the last digit of |n| (40_segment_encoder.md R53). -/
@[simp] theorem res_magnitude (n : Int) : res .magnitude n = ((n.natAbs % 10 : Nat) : Int) := rfl

/-- Under TRUNCATED the residue is the remainder with the sign of n (40_segment_encoder.md R53). -/
@[simp] theorem res_truncated (n : Int) : res .truncated n = trem n := rfl

end Sys2Proof.Machine
end

