-- ==== Sys2Proof/Laws/PerInstr.lean ====
section
/-! SUPPORT. The family RequestLayout: the control byte of every instruction's request word
(30_encoding.md R34, R35, R38), one lemma per constructor. -/

namespace Sys2Proof.Laws

/-- The word's `ctl` field has its reserved bits 0 and selects the instruction's own operation, at every TEMP_W. -/
def RequestLayout.Statement (i : Instr) : Prop :=
  ∀ W : Nat, reservedOf (ctlOf W (encode W i)) = 0#6 ∧ opOfBits (opBitsOf (ctlOf W (encode W i))) = i.op

/-- The low byte of an encoded word is its control byte. -/
theorem ctlOf_encode (W : Nat) (i : Instr) : ctlOf W (encode W i) = ctlBits i.op := by
  simp only [ctlOf, encode]
  apply BitVec.eq_of_getLsbD_eq
  intro k hk
  simp [BitVec.getLsbD_append, hk]

/-- A control byte's fields, operation by operation (30_encoding.md R35). -/
theorem ctlBits_fields (o : Op) : reservedOf (ctlBits o) = 0#6 ∧ opOfBits (opBitsOf (ctlBits o)) = o := by
  cases o <;> decide

theorem RequestLayout.dec (n : Int) : RequestLayout.Statement (.dec n) := fun W => by
  rw [ctlOf_encode]; exact ctlBits_fields _

theorem RequestLayout.hex (b : BitVec 8) : RequestLayout.Statement (.hex b) := fun W => by
  rw [ctlOf_encode]; exact ctlBits_fields _

theorem RequestLayout.fmt (t : Int) : RequestLayout.Statement (.fmt t) := fun W => by
  rw [ctlOf_encode]; exact ctlBits_fields _

theorem RequestLayout.lut (r : Int) : RequestLayout.Statement (.lut r) := fun W => by
  rw [ctlOf_encode]; exact ctlBits_fields _

end Sys2Proof.Laws
end

