-- ==== Sys2Proof/Laws/State.lean ====
section
/-! SUPPORT. One lemma per field per update of the state, so that no proof unfolds a record update. -/

namespace Sys2Proof.Machine

@[simp] theorem withResult_cfg (s : State) (r : Result) : (s.withResult r).cfg = s.cfg := rfl
@[simp] theorem withResult_inputs (s : State) (r : Result) : (s.withResult r).inputs = s.inputs := rfl
@[simp] theorem withResult_port (s : State) (r : Result) : (s.withResult r).port = some r := rfl
@[simp] theorem withResult_mark (s : State) (r : Result) : (s.withResult r).mark = s.mark := rfl
@[simp] theorem withResult_trace (s : State) (r : Result) : (s.withResult r).trace = s.trace ++ [some r] := rfl

@[simp] theorem withInputs_cfg (s : State) (l : List Input) : (s.withInputs l).cfg = s.cfg := rfl
@[simp] theorem withInputs_inputs (s : State) (l : List Input) : (s.withInputs l).inputs = l := rfl
@[simp] theorem withInputs_port (s : State) (l : List Input) : (s.withInputs l).port = s.port := rfl
@[simp] theorem withInputs_mark (s : State) (l : List Input) : (s.withInputs l).mark = s.mark := rfl
@[simp] theorem withInputs_trace (s : State) (l : List Input) : (s.withInputs l).trace = s.trace := rfl

@[simp] theorem afterReset_cfg (s : State) : s.afterReset.cfg = s.cfg := rfl
@[simp] theorem afterReset_inputs (s : State) : s.afterReset.inputs = s.inputs := rfl
@[simp] theorem afterReset_port (s : State) : s.afterReset.port = none := rfl
@[simp] theorem afterReset_mark (s : State) : s.afterReset.mark = s.mark := rfl
@[simp] theorem afterReset_trace (s : State) : s.afterReset.trace = s.trace := rfl

@[simp] theorem withRefusal_cfg (s : State) (r : RefusalReason) : (s.withRefusal r).cfg = s.cfg := rfl
@[simp] theorem withRefusal_inputs (s : State) (r : RefusalReason) : (s.withRefusal r).inputs = s.inputs := rfl
@[simp] theorem withRefusal_port (s : State) (r : RefusalReason) : (s.withRefusal r).port = none := rfl
@[simp] theorem withRefusal_mark (s : State) (r : RefusalReason) :
    (s.withRefusal r).mark = s.mark ++ [⟨r, s.trace.length + 1⟩] := rfl
@[simp] theorem withRefusal_trace (s : State) (r : RefusalReason) : (s.withRefusal r).trace = s.trace ++ [none] := rfl

@[simp] theorem issue_cfg (s : State) (x : Input) : (s.issue x).cfg = s.cfg := rfl
@[simp] theorem issue_inputs (s : State) (x : Input) : (s.issue x).inputs = s.inputs ++ [x] := rfl
@[simp] theorem issue_port (s : State) (x : Input) : (s.issue x).port = s.port := rfl
@[simp] theorem issue_mark (s : State) (x : Input) : (s.issue x).mark = s.mark := rfl
@[simp] theorem issue_trace (s : State) (x : Input) : (s.issue x).trace = s.trace := rfl

@[simp] theorem resetOf_cfg (c : Cfg) : (State.resetOf c).cfg = c := rfl
@[simp] theorem resetOf_inputs (c : Cfg) : (State.resetOf c).inputs = [] := rfl
@[simp] theorem resetOf_port (c : Cfg) : (State.resetOf c).port = none := rfl
@[simp] theorem resetOf_mark (c : Cfg) : (State.resetOf c).mark = [] := rfl
@[simp] theorem resetOf_trace (c : Cfg) : (State.resetOf c).trace = [] := rfl

end Sys2Proof.Machine
end

