-- ==== Sys2Proof/Laws/Step.lean ====
section
/-! SUPPORT. What one step can do, said once: an instruction delivers a result and changes nothing else, and a step
takes at most one input. -/

namespace Sys2Proof.Machine

/-- The result an instruction delivers (one line per operation rule). -/
def resultOf (c : Cfg) : Instr → Result
  | .dec n => .one (decPattern c n)
  | .hex b => hexPair c b
  | .fmt t => .frame (fmtFrame c t)
  | .lut r => .one (lutf c r)

/-- Everything any instruction does (60_exceptions.md R67, 10_state.md R15). -/
theorem exec_eq (i : Instr) (s : State) : exec i s = .next (s.withResult (resultOf s.cfg i)) := by
  cases i <;> rfl

/-- The length of a result depends only on the operation (10_state.md R19). -/
theorem resultOf_length (c : Cfg) (i : Instr) : (resultOf c i).patterns.length = i.op.resultCount := by
  cases i with
  | hex b => simp only [resultOf, hexPair]; cases c.hexOrder <;> rfl
  | dec n => rfl
  | fmt t => simp [resultOf, Result.patterns, Instr.op, Op.resultCount]
  | lut r => rfl

/-- Everything one step can do, its guards included. -/
theorem step_cases {s s' : State} (h : step s = .next s') : s.cfg.wf = true ∧
    ((s.inputs = [] ∧ s' = s) ∨
     (∃ w rest i, s.inputs = .request w :: rest ∧ decode s.cfg.tempW (portWord s.cfg w) = .accepted i ∧
        s' = (s.withInputs rest).withResult (resultOf s.cfg i)) ∨
     (∃ w rest r, s.inputs = .request w :: rest ∧ decode s.cfg.tempW (portWord s.cfg w) = .refused r ∧
        s' = (s.withInputs rest).withRefusal r) ∨
     (∃ rest, (s.inputs = .reset :: rest ∨ ∃ w, s.inputs = .requestCutByReset w :: rest) ∧
        s' = (s.withInputs rest).afterReset)) := by
  unfold step at h
  split at h
  case isFalse => cases h
  case isTrue hwf =>
    refine ⟨hwf, ?_⟩
    unfold takeNextInput at h
    split at h
    case h_1 he => cases h; exact .inl ⟨he, rfl⟩
    case h_2 x rest he =>
      cases x with
      | request w =>
        simp only [takeInput, evaluateRequest, withInputs_cfg] at h
        split at h
        case h_1 i hd =>
          rw [exec_eq] at h
          cases h
          exact .inr (.inl ⟨w, rest, i, he, hd, rfl⟩)
        case h_2 r hd => cases h; exact .inr (.inr (.inl ⟨w, rest, r, he, hd, rfl⟩))
      | reset => cases h; exact .inr (.inr (.inr ⟨rest, .inl he, rfl⟩))
      | requestCutByReset w => cases h; exact .inr (.inr (.inr ⟨rest, .inr ⟨w, he⟩, rfl⟩))

end Sys2Proof.Machine
end

