-- ==== Sys2Proof/Laws/Run.lean ====
section
/-! SUPPORT. Runs of several steps: one step more at the front, and agreement with the host's own run. -/

namespace Sys2Proof.Machine

/-- A run whose first step answers a next state goes on from there. -/
theorem runSteps_of_next {s s' : State} (n : Nat) (h : step s = .next s') : runSteps (n + 1) s = runSteps n s' := by
  simp only [runSteps, h]

/-- The first step of a run that ends in a next state answers one. -/
theorem runSteps_cases {n : Nat} {s s' : State} (h : runSteps (n + 1) s = .next s') :
    ∃ s₁, step s = .next s₁ ∧ runSteps n s₁ = .next s' := by
  cases hs : step s with
  | next s₁ => exact ⟨s₁, rfl, by rwa [runSteps_of_next n hs] at h⟩
  | fault r => simp [runSteps, hs] at h
  | refused r => simp [runSteps, hs] at h

/-- One step of the host's run of any machine, by what the step answers. -/
theorem hostRun_succ (M : Host.Core) (n : Nat) (s : M.State) :
    (∀ s', M.step s = .next s' → M.run (n + 1) s = M.run n s') ∧
    (∀ r, M.step s = .fault r → M.run (n + 1) s = .fault r) ∧
    (∀ r, M.step s = .refused r → M.run (n + 1) s = .refused r) :=
  ⟨fun _ h => by simp only [Host.Core.run, h], fun _ h => by simp only [Host.Core.run, h],
   fun _ h => by simp only [Host.Core.run, h]⟩

/-- `runSteps` is the host's run of this machine. -/
theorem runSteps_eq_host (n : Nat) : ∀ s : State, runSteps n s = Host.Core.run Sys2Proof.core n s := by
  induction n with
  | zero => intro s; rfl
  | succ n ih =>
    intro s
    obtain ⟨hn, hf, hr⟩ := hostRun_succ Sys2Proof.core n s
    cases hs : step s with
    | next s' => exact (runSteps_of_next n hs).trans ((ih s').trans (hn s' hs).symm)
    | fault r => exact (show runSteps (n + 1) s = .fault r by simp only [runSteps, hs]).trans (hf r hs).symm
    | refused r => exact (show runSteps (n + 1) s = .refused r by simp only [runSteps, hs]).trans (hr r hs).symm

end Sys2Proof.Machine
end

