-- ==== Sys2Proof/Tests/Slice0.lean ====
section
/-! SUPPORT. The model's own tests.  Expected values are those of 95_test_vectors.md and of the rules' worked examples;
where they are numbers, the statement names the reference instantiation (30_encoding.md R51). -/

open Sys2Proof Sys2Proof.Machine Sys2Proof.Claims

namespace Sys2Proof.Tests

/-- A machine built with `c`, fresh from reset, with request word `w` issued. -/
def withRequest (c : Cfg) (w : Nat) : State := (State.resetOf c).issue (.request (BitVec.ofNat 72 w))

/-- The state after one step, if there is one. -/
def after (s : State) : Option State :=
  match step s with
  | .next t => some t
  | .fault _ => none
  | .refused _ => none

/-- The result word after one step over request word `w`. -/
def wordOf (c : Cfg) (w : Nat) : Option ResultWord := (after (withRequest c w)).bind State.resultWord

/-- The reference instantiation under TRUNCATED (00_scope.md R6). -/
def truncatedReference : Cfg := { Cfg.reference with residueMode := .truncated }

/-- The reference instantiation under LO_FIRST (00_scope.md R7). -/
def loFirstReference : Cfg := { Cfg.reference with hexOrder := .loFirst }

/-- The reference instantiation at TEMP_W = 32 (95_test_vectors.md section 2.6). -/
def wideReference : Cfg := { Cfg.reference with tempW := 32 }

/-! ### WellFormed: a good configuration, and one ill-formed term for each check -/

theorem test_wf_reference : Cfg.reference.wf = true := by decide
theorem test_wf_width_low : ({ Cfg.reference with tempW := 7 } : Cfg).widthOk = false := by decide
theorem test_wf_width_high : ({ Cfg.reference with tempW := 65 } : Cfg).widthOk = false := by decide
theorem test_wf_segmap_shared_bit :
    ({ Cfg.reference with segmap := { Cfg.reference.segmap with g := 1 } } : Cfg).segmapOk = false := by decide
theorem test_wf_digit_repeated :
    ({ Cfg.reference with digit := Cfg.reference.digit.set 1 0x7E#8 } : Cfg).digitOk = false := by decide
theorem test_wf_digit_with_point :
    ({ Cfg.reference with digit := Cfg.reference.digit.set 1 0xB0#8 } : Cfg).digitOk = false := by decide
theorem test_wf_glyphC_with_point : ({ Cfg.reference with glyphC := 0xCE#8 } : Cfg).glyphCOk = false := by decide
theorem test_wf_fallback_two_segments : ({ Cfg.reference with fallback := 0x03#8 } : Cfg).fallbackOk = false := by decide
theorem test_wf_fallback_is_point : ({ Cfg.reference with fallback := 0x80#8 } : Cfg).fallbackOk = false := by decide
theorem test_wf_fallback_is_digit :
    ({ Cfg.reference with digit := Cfg.reference.digit.set 1 0x01#8 } : Cfg).fallbackOk = false := by decide
theorem test_wf_hexaf_with_point :
    ({ Cfg.reference with hexaf := Cfg.reference.hexaf.set 0 0xF7#8 } : Cfg).hexOk = false := by decide
theorem test_wf_hexaf_is_digit :
    ({ Cfg.reference with hexaf := Cfg.reference.hexaf.set 0 0x7E#8 } : Cfg).hexOk = false := by decide
theorem test_wf_dec_above_range : (Instr.dec 32768).wf 16 = false := by decide
theorem test_wf_fmt_below_range : (Instr.fmt (-32769)).wf 16 = false := by decide
theorem test_wf_lut_above_range : (Instr.lut 32768).wf 16 = false := by decide
theorem test_wf_hex_any_byte : (Instr.hex 0xFF#8).wf 8 = true := by decide

/-! ### Decoding: words written out from 30_encoding.md R34 to R40 -/

/-- opd = 0xFFF1 = −15, ctl = 000000|00. -/
theorem test_decode_dec : decode 16 0b111111111111000100000000#24 = .accepted (.dec (-15)) := by decide
/-- opd = 0x00FF, ctl = 000000|01. -/
theorem test_decode_hex : decode 16 0b000000001111111100000001#24 = .accepted (.hex 0xFF#8) := by decide
/-- opd = 0x8000 = −32768, ctl = 000000|10. -/
theorem test_decode_fmt : decode 16 0b100000000000000000000010#24 = .accepted (.fmt (-32768)) := by decide
/-- opd = 0x7FFF = 32767, ctl = 000000|11. -/
theorem test_decode_lut : decode 16 0b011111111111111100000011#24 = .accepted (.lut 32767) := by decide
theorem test_decode_each_reserved_bit :
    ∀ k : Fin 6, decode 16 (1#24 <<< (k.val + 2)) = .refused .reservedCtl := by decide
theorem test_decode_hex_range : decode 16 0x010001#24 = .refused .hexOperandRange := by decide
theorem test_decode_priority : decode 16 0x010005#24 = .refused .reservedCtl := by decide
theorem test_decode_narrowest : decode 8 0x8002#16 = .accepted (.fmt (-128)) := by decide
theorem test_decode_widest : decode 64 0x800000000000000003#72 = .accepted (.lut (-9223372036854775808)) := by decide
/-- 30_encoding.md R41: `FMT -15` is 0xFFF102. -/
theorem test_encode_fmt : encode 16 (.fmt (-15)) = 0xFFF102#24 := by decide
theorem test_encode_hex : encode 16 (.hex 0x5A#8) = 0x005A01#24 := by decide
theorem test_table_word : decodeTableWord 24 0xFFFF03 = some (.lut (-1)) := by decide
theorem test_assemble_fmt : assemble 16 ['F', 'M', 'T', ' ', '-', '1', '5'] = some 0xFFF102#24 := by decide
theorem test_assemble_hex : assemble 16 ['H', 'E', 'X', ' ', '0', 'x', '5', 'A'] = some 0x005A01#24 := by decide
theorem test_assemble_rejects_mnemonic : assemble 16 ['F', 'M', 'X', ' ', '1'] = none := by decide
theorem test_assemble_rejects_operand : assemble 16 ['D', 'E', 'C', ' ', '0', 'x'] = none := by decide
theorem test_assemble_rejects : assemble 16 ['H', 'E', 'X', ' ', '0', 'x', '1', '0', '0'] = none := by decide

/-! ### One step: vectors of 95_test_vectors.md under the reference instantiation -/

theorem test_dec_most_negative : wordOf Cfg.reference 0x800000 = some 0x7F#64 := by decide
theorem test_dec_truncated : wordOf truncatedReference 0xFFF700 = some 0x01#64 := by decide
theorem test_lut_first_fallback : wordOf Cfg.reference 0x000A03 = some 0x01#64 := by decide
theorem test_lut_nine : wordOf Cfg.reference 0x000903 = some 0x7B#64 := by decide
theorem test_hex_hi_first : wordOf Cfg.reference 0x009B01 = some 0x1F7B#64 := by decide
theorem test_hex_lo_first : wordOf loFirstReference 0x009B01 = some 0x7B1F#64 := by decide
theorem test_fmt_most_negative : wordOf Cfg.reference 0x800002 = some 0x01796D70DF7F004E#64 := by decide
theorem test_fmt_truncated : wordOf truncatedReference 0xFC1802 = some 0x0001017EFE7E004E#64 := by decide
/-- 95_test_vectors.md section 2.6: −100000 at TEMP_W = 32 has no sign marker. -/
theorem test_fmt_wide_no_sign : wordOf wideReference 0xFFFE796002 = some 0x307E7E7EFE7E004E#64 := by decide

/-- Program P4's refused request, `HEX 0x100`: the mark records the reason and the request, and no result stands. -/
theorem test_refusal_recorded : (after (withRequest Cfg.reference 0x010001)).map
    (fun t => (t.mark, t.trace, t.resultWord)) = some ([⟨.hexOperandRange, 1⟩], [none], none) := by decide

/-- 30_encoding.md R50's table, column "segments lit": digit 4 is B C F G. -/
theorem test_segments_of_four : litSegments Cfg.reference Cfg.reference.digit[4] = [.b, .c, .f, .g] := by decide
theorem test_segments_of_units_digit : litSegments Cfg.reference 0xDB#8 = [.a, .c, .d, .f, .g, .dp] := by decide

/-- The host's placement runs the word as the first request after reset. -/
theorem test_fetch_word : (after (State.reset.withFetchWord 24 0x00FD02)).bind State.resultWord =
    some 0x0000006DDB79004E#64 := by decide

/-! ### Witnesses: a state and operands that meet the hypotheses of each statement -/

/-- A state with a refusal and a result behind it and a request ahead. -/
def busy (i : Input) : State where
  cfg := truncatedReference
  inputs := [i, .reset]
  port := some (.one 0x7E#8)
  mark := [⟨.reservedCtl, 1⟩]
  trace := [none, some (.one 0x7E#8)]

theorem witness_encode_low : 8 ≤ 8 ∧ (Instr.fmt (-128)).wf 8 = true ∧ (Instr.dec 127).wf 8 = true := by decide
theorem witness_encode_high : 8 ≤ 64 ∧ (Instr.lut 9223372036854775807).wf 64 = true := by decide
theorem witness_accepted : decode 16 0x00FF01#24 = .accepted (.hex 0xFF#8) := by decide
theorem witness_refused_reserved : (0x010005#24).toNat % 256 / 4 ≠ 0 := by decide
theorem witness_refused_hex : (0x010001#24).toNat % 256 = 1 ∧ (0x010001#24).toNat / 2 ^ 16 ≠ 0 := by decide
theorem witness_fields : (0xFFFF00#24).toNat % 256 = 0 ∧
    ((0x00FF01#24).toNat % 256 = 1 ∧ (0x00FF01#24).toNat / 256 < 256) ∧
    (0x800002#24).toNat % 256 = 2 ∧ (0x7FFF03#24).toNat % 256 = 3 := by decide
theorem witness_assembler_in : let v := -(digitsNumber [3, 2, 7, 6, 8] : Int)
    [3, 2, 7, 6, 8] ≠ ([] : List (Fin 10)) ∧ -(2 ^ (16 - 1) : Int) ≤ v ∧ v < 2 ^ (16 - 1) := by decide
theorem witness_assembler_out : let v := (digitsNumber [3, 2, 7, 6, 8] : Int)
    ¬ (-(2 ^ (16 - 1) : Int) ≤ v ∧ v < 2 ^ (16 - 1)) ∧ ¬ (0 ≤ v ∧ v ≤ 255) := by decide
theorem witness_assembler_hex : hexNumber [⟨15, true⟩, ⟨15, false⟩] = 255 ∧
    hexText [⟨15, true⟩, ⟨15, false⟩] = ['0', 'x', 'F', 'f'] ∧ ¬ hexNumber [⟨1, true⟩, ⟨0, true⟩, ⟨0, true⟩] ≤ 255 ∧
    hexNumber [⟨7, true⟩, ⟨15, true⟩, ⟨15, true⟩, ⟨15, true⟩] < 2 ^ (16 - 1) ∧
    ¬ hexNumber [⟨8, true⟩, ⟨0, true⟩, ⟨0, true⟩, ⟨0, true⟩] < 2 ^ (16 - 1) := by decide
theorem witness_assembler_text : assemble 16 ['H', 'E', 'X', ' ', '-', '0'] = some 0x000001#24 := by decide
theorem witness_assembler_byte : 0 ≤ (digitsNumber [2, 5, 5] : Int) ∧ (digitsNumber [2, 5, 5] : Int) ≤ 255 := by decide
theorem witness_step_accepted : (busy (.request 0xFFF102#72)).cfg.wf = true ∧
    (busy (.request 0xFFF102#72)).inputs = .request 0xFFF102#72 :: [.reset] ∧
    decode 16 ((0xFFF102#72).setWidth 24) = .accepted (.fmt (-15)) := by decide
theorem witness_step_placed : (busy .reset).cfg.wf = true ∧
    decode 16 ((BitVec.ofNat 72 (0x000003 % 2 ^ 24)).setWidth 24) = .accepted (.lut 0) := by decide
theorem witness_step_refused : (busy (.request 0x010001#72)).cfg.wf = true ∧
    (busy (.request 0x010001#72)).inputs = .request 0x010001#72 :: [.reset] ∧
    decode 16 ((0x010001#72).setWidth 24) = .refused .hexOperandRange := by decide
theorem witness_refused_step_is_next :
    (after (busy (.request 0x010001#72))).map State.resultWord = some none := by decide
theorem witness_step_reset : (busy .reset).cfg.wf = true ∧ (busy .reset).inputs = .reset :: [.reset] := by decide
theorem witness_step_cut : (busy (.requestCutByReset 0x000000#72)).inputs = .requestCutByReset 0x000000#72 :: [.reset] := by
  decide
theorem witness_step_waits : State.reset.cfg.wf = true ∧ State.reset.inputs = [] := by decide
theorem witness_ill_formed : (State.resetOf { Cfg.reference with tempW := 7 }).cfg.wf = false := by decide
/-- A run of two steps, a refusal among them, that ends in a next state. -/
theorem witness_run : ∃ s', runSteps 2 (busy (.request 0x000004#72)) = .next s' ∧ s'.mark.length = 2 := ⟨_, rfl, rfl⟩
theorem witness_issue : ∃ s', runSteps (busy .reset).inputs.length (busy .reset) = .next s' := ⟨_, rfl⟩
theorem witness_lut_clauses : (9 : Int) = (9 : Fin 10).val ∧ ((10 : Int) < 0 ∨ 9 < (10 : Int)) ∧ ((-1 : Int) < 0 ∨ 9 < (-1 : Int)) := by
  decide
theorem witness_hex_orders : State.reset.cfg.hexOrder = .hiFirst ∧ (State.resetOf loFirstReference).cfg.hexOrder = .loFirst := by
  decide
theorem witness_encoder_modes : State.reset.cfg.wf = true ∧ State.reset.cfg.residueMode = .magnitude ∧
    (State.resetOf truncatedReference).cfg.wf = true ∧ (State.resetOf truncatedReference).cfg.residueMode = .truncated := by
  decide
theorem witness_delivers_dec : Delivers (.dec 9) State.reset (.one 0x7B#8) := rfl
theorem witness_delivers_lut : Delivers (.lut 10) State.reset (.one 0x01#8) := rfl
theorem witness_delivers_hex : Delivers (.hex 0x5A#8) State.reset (.two 0x5B#8 0x77#8) := rfl
theorem witness_residue_modes : (0 : Int) ≤ 0 ∧
    (State.resetOf truncatedReference).cfg = { State.reset.cfg with residueMode := .truncated } := by decide
theorem witness_digit_counts : IsDigitCount 1 0 ∧ IsDigitCount 1 9 ∧ IsDigitCount 2 10 ∧ IsDigitCount 5 99999 := by
  unfold IsDigitCount; decide
theorem witness_sign_positions : (4 : Fin 8).val = max 4 (1 + 2) ∧ (4 : Fin 8).val = max 4 (2 + 2) ∧ (7 : Fin 8).val = max 4 (5 + 2) := by
  decide
theorem witness_sign_cases : ((-99999 : Int) < 0 ∧ (-99999 : Int).natAbs < 10 ^ 5) ∧
    ((-100000 : Int) < 0 ∧ 10 ^ 5 ≤ (-100000 : Int).natAbs) ∧ (0 ≤ (9 : Int) ∧ (9 : Int).natAbs < 10 ^ (4 - 2)) := by decide
theorem witness_chain_clauses : 10 ^ (0 + 2) ≤ (100 : Int).natAbs ∧ (99 : Int).natAbs < 10 ^ (0 + 2) ∧ (scanAt 99 0).q = 0 := by
  decide
theorem witness_lost_digits : 10 ^ 5 ≤ (100000 : Int).natAbs ∧ 10 ^ 5 ≤ (-1100000 : Int).natAbs ∧
    (100000 : Int).natAbs % 10 ^ 6 = (-1100000 : Int).natAbs % 10 ^ 6 := by decide
theorem witness_default_width : State.reset.cfg.tempW = 16 ∧ (Instr.fmt (-32768)).wf State.reset.cfg.tempW = true ∧
    (Instr.fmt 32767).wf State.reset.cfg.tempW = true := by decide
theorem witness_read_back : (∀ d : Fin 10, d ≠ 0 → State.reset.cfg.digit[d] ≠ blankGlyph) ∧ (-99999 : Int).natAbs < 10 ^ 5 := by
  decide
theorem witness_delivers_fmt :
    Delivers (.fmt (-15)) State.reset (.frame #v[0x4E#8, 0x00#8, 0x5B#8, 0xB0#8, 0x01#8, 0x00#8, 0x00#8, 0x00#8]) := rfl
theorem witness_two_machines : (busy (.request 0x000000#72)).cfg = (withRequest truncatedReference 0x000000).cfg ∧
    (withRequest truncatedReference 0x000000).inputs = .request 0x000000#72 :: [] := by decide
/-- A state that is not reset and meets the invariant: it has a refusal, a result and inputs. -/
theorem witness_invariant : (busy (.request 0xFFF102#72)).Inv where
  cfgWf := by decide
  markIsRefusals := by decide
  portIsLast := by intro r h; cases h; decide
  traceShown := by
    intro r h
    simp only [busy, List.mem_cons, Option.some.injEq, List.not_mem_nil, or_false, reduceCtorEq, false_or] at h
    subst h
    show (0x7E#8 &&& truncatedReference.dpMask) = 0#8
    decide
  inputsFit := by
    intro x h
    simp only [busy, List.mem_cons, List.not_mem_nil, or_false] at h
    rcases h with rfl | rfl
    · show (0xFFF102#72).toNat < 2 ^ (truncatedReference.tempW + 8)
      decide
    · trivial
theorem witness_invariant_step : (after (busy (.request 0xFFF102#72))).isSome = true := by decide

end Sys2Proof.Tests
end

/-! PROOFS of the family of 00_scope.md: what taking the oldest input does, what a fresh machine gives a request, and
where the residue mode plays no part. -/

namespace Sys2Proof.Machine

/-! ### Taking one input -/

/-- Under a well-formed configuration a step takes the oldest input (60_exceptions.md R69). -/
theorem step_of_inputs_cons {s : State} {x : Input} {rest : List Input} (hwf : s.cfg.wf = true)
    (hin : s.inputs = x :: rest) : step s = takeInput x (s.withInputs rest) := by
  simp only [step, hwf, if_true, takeNextInput, hin]

theorem evaluateRequest_of_accepted {s : State} {w : ReqWord} {i : Instr}
    (h : decode s.cfg.tempW (portWord s.cfg w) = .accepted i) :
    evaluateRequest w s = .next (s.withResult (resultOf s.cfg i)) := by
  simp only [evaluateRequest, h, exec_eq]

theorem evaluateRequest_of_refused {s : State} {w : ReqWord} {r : RefusalReason}
    (h : decode s.cfg.tempW (portWord s.cfg w) = .refused r) :
    evaluateRequest w s = .next (s.withRefusal r) := by
  simp only [evaluateRequest, h]

/-- What a fresh machine gives a request is what the port holds after evaluating it there. -/
theorem freshResult_of_evaluateRequest {c : Cfg} {w : ReqWord} {t : State} (hwf : c.wf = true)
    (h : evaluateRequest w (State.resetOf c) = .next t) : freshResult c w = t.port := by
  have hstep : step ((State.resetOf c).withInputs [.request w]) = .next t :=
    (step_of_inputs_cons (x := .request w) (rest := []) hwf rfl).trans h
  simp only [freshResult, hstep]

/-- 00_scope.md R4, R14: a request evaluated in any state gives what a machine fresh from reset gives it, on the port
and as the trace's new entry; the configuration and the waiting inputs stay. -/
theorem evaluateRequest_gives_freshResult (w : ReqWord) (s : State) (hwf : s.cfg.wf = true) :
    ∃ t, evaluateRequest w s = .next t ∧ t.cfg = s.cfg ∧ t.inputs = s.inputs ∧
      t.port = freshResult s.cfg w ∧ t.trace = s.trace ++ [freshResult s.cfg w] := by
  cases hd : decode s.cfg.tempW (portWord s.cfg w) with
  | accepted i =>
    have hfresh : freshResult s.cfg w = some (resultOf s.cfg i) :=
      freshResult_of_evaluateRequest hwf (evaluateRequest_of_accepted (s := State.resetOf s.cfg) hd)
    exact ⟨_, evaluateRequest_of_accepted hd, by simp [hfresh]⟩
  | refused r =>
    have hfresh : freshResult s.cfg w = none :=
      freshResult_of_evaluateRequest hwf (evaluateRequest_of_refused (s := State.resetOf s.cfg) hd)
    exact ⟨_, evaluateRequest_of_refused hd, by simp [hfresh]⟩

/-- A step over a request word leaves the fresh machine's result on the port. -/
theorem step_request_port {s : State} {w : ReqWord} {rest : List Input} (hwf : s.cfg.wf = true)
    (hin : s.inputs = .request w :: rest) : ∃ t, step s = .next t ∧ t.port = freshResult s.cfg w := by
  obtain ⟨t, ht, -, -, hport, -⟩ := evaluateRequest_gives_freshResult w (s.withInputs rest) hwf
  exact ⟨t, (step_of_inputs_cons hwf hin).trans ht, hport⟩

/-- Any one input is taken, and the trace grows by the fresh machine's result exactly when it is a request evaluated to
its end (70_reset_and_hazards.md R77). -/
theorem step_takes_oldest {s : State} {x : Input} {rest : List Input} (hwf : s.cfg.wf = true)
    (hin : s.inputs = x :: rest) : ∃ t, step s = .next t ∧ t.cfg = s.cfg ∧ t.inputs = rest ∧
      t.trace = s.trace ++ (evaluatedRequests [x]).map (freshResult s.cfg) := by
  rw [step_of_inputs_cons hwf hin]
  cases x with
  | request w =>
    obtain ⟨t, ht, hcfg, hinputs, -, htrace⟩ := evaluateRequest_gives_freshResult w (s.withInputs rest) hwf
    exact ⟨t, ht, hcfg, hinputs, htrace⟩
  | reset => exact ⟨_, rfl, by simp [evaluatedRequests]⟩
  | requestCutByReset w => exact ⟨_, rfl, by simp [evaluatedRequests]⟩

theorem evaluatedRequests_cons (x : Input) (rest : List Input) :
    evaluatedRequests (x :: rest) = evaluatedRequests [x] ++ evaluatedRequests rest := by
  cases x <;> rfl

/-- A run takes a whole list of inputs, one a step, in order. -/
theorem runSteps_takes_all (l : List Input) : ∀ s : State, s.cfg.wf = true → s.inputs = l →
    ∃ s', runSteps l.length s = .next s' ∧ s'.inputs = [] ∧ s'.cfg = s.cfg ∧
      s'.trace = s.trace ++ (evaluatedRequests l).map (freshResult s.cfg) := by
  induction l with
  | nil => exact fun s _ hin => ⟨s, rfl, hin, rfl, by simp [evaluatedRequests]⟩
  | cons x rest ih =>
    intro s hwf hin
    obtain ⟨t, hstep, hcfg, hinputs, htrace⟩ := step_takes_oldest hwf hin
    obtain ⟨s', hrun, hdone, hcfg', htrace'⟩ := ih t (hcfg ▸ hwf) hinputs
    refine ⟨s', (runSteps_of_next _ hstep).trans hrun, hdone, hcfg'.trans hcfg, ?_⟩
    rw [htrace', htrace, hcfg, evaluatedRequests_cons x rest, List.map_append, List.append_assoc]

/-! ### The residue mode and operands that are not negative -/

/-- For an operand that is not negative the residue is its last digit in either mode (40_segment_encoder.md R53). -/
theorem res_of_nonneg (m : ResidueMode) {n : Int} (h : 0 ≤ n) : res m n = ((n.natAbs % 10 : Nat) : Int) := by
  cases m with
  | magnitude => rfl
  | truncated =>
    rw [res_truncated, trem_eq_int_tmod, Int.tmod_eq_emod_of_nonneg h]
    omega

theorem tdiv_nonneg {n : Int} (h : 0 ≤ n) : 0 ≤ tdiv n := by
  rw [tdiv_eq_int_tdiv]
  exact Int.tdiv_nonneg h (by decide)

theorem scanNext_q_nonneg {x : Scan} (h : 0 ≤ x.q) : 0 ≤ (scanNext x).q := by
  unfold scanNext
  split
  · exact tdiv_nonneg h
  · exact h

/-- The scan of an operand that is not negative never tests a negative quotient (41_frame_formatter.md R61). -/
theorem scanAt_q_nonneg {t : Int} (h : 0 ≤ t) : ∀ j, 0 ≤ (scanAt t j).q
  | 0 => tdiv_nonneg (tdiv_nonneg h)
  | j + 1 => scanNext_q_nonneg (scanAt_q_nonneg h j)

/-- The lookup table does not know the residue mode, and the residue is the same in both. -/
theorem decPattern_residueMode (c : Cfg) (m : ResidueMode) {n : Int} (h : 0 ≤ n) :
    decPattern { c with residueMode := m } n = decPattern c n := by
  have hlutf (r : Int) : lutf { c with residueMode := m } r = lutf c r := rfl
  rw [decPattern, decPattern, res_of_nonneg _ h, res_of_nonneg _ h, hlutf]

theorem scanGlyph_residueMode (c : Cfg) (m : ResidueMode) {x : Scan} (h : 0 ≤ x.q) :
    scanGlyph { c with residueMode := m } x = scanGlyph c x := by
  simp only [scanGlyph, decPattern_residueMode c m h]

theorem fmtFrame_residueMode (c : Cfg) (m : ResidueMode) {t : Int} (h : 0 ≤ t) :
    fmtFrame { c with residueMode := m } t = fmtFrame c t := by
  have hmask : Cfg.dpMask { c with residueMode := m } = c.dpMask := rfl
  simp only [fmtFrame, hmask, decPattern_residueMode c m h, decPattern_residueMode c m (tdiv_nonneg h),
    scanGlyph_residueMode c m (scanAt_q_nonneg h _)]

end Sys2Proof.Machine

namespace Sys2Proof.Claims

open Sys2Proof.Machine

/-- Every instruction delivers its result at every state. -/
theorem delivers_resultOf (i : Instr) (s : State) : Delivers i s (resultOf s.cfg i) := exec_eq i s

/-- Settles O21: in either mode the residue of an operand that is not negative is its last digit, and every quotient of
FMT's scan is again not negative. -/
theorem residueModesAgreeOffTheNegatives : Obligations.ResidueModesAgreeOffTheNegatives := by
  unfold Obligations.ResidueModesAgreeOffTheNegatives
  intro s s' m n hn hcfg
  have hdec : decPattern s'.cfg n = decPattern s.cfg n := hcfg ▸ decPattern_residueMode s.cfg m hn
  have hfmt : fmtFrame s'.cfg n = fmtFrame s.cfg n := hcfg ▸ fmtFrame_residueMode s.cfg m hn
  exact ⟨decPattern s.cfg n, fmtFrame s.cfg n, delivers_resultOf (.dec n) s, hdec ▸ delivers_resultOf (.dec n) s',
    delivers_resultOf (.fmt n) s, hfmt ▸ delivers_resultOf (.fmt n) s'⟩

/-- Settles O35: both ports hold what a machine fresh from reset gives the request. -/
theorem resultDependsOnlyOnRequestAndConfiguration : Obligations.ResultDependsOnlyOnRequestAndConfiguration := by
  unfold Obligations.ResultDependsOnlyOnRequestAndConfiguration
  intro s₁ s₂ w rest₁ rest₂ hwf hcfg hin₁ hin₂
  obtain ⟨t₁, hstep₁, hport₁⟩ := step_request_port hwf hin₁
  obtain ⟨t₂, hstep₂, hport₂⟩ := step_request_port (hcfg ▸ hwf) hin₂
  have hport : t₁.port = t₂.port := by rw [hport₁, hport₂, hcfg]
  exact ⟨t₁, t₂, hstep₁, hstep₂, hport, congrArg (Option.map Result.word) hport⟩

/-- Settles O36, by induction on the inputs. -/
theorem runEvaluatesEachRequestAsAFreshMachine : Obligations.RunEvaluatesEachRequestAsAFreshMachine := by
  unfold Obligations.RunEvaluatesEachRequestAsAFreshMachine
  exact fun s hwf => runSteps_takes_all s.inputs s hwf rfl

end Sys2Proof.Claims

/-! PROOFS of the family of 10_state.md: what every step and every run keeps, what a placed request does, and the
machine right after reset. -/

namespace Sys2Proof.Machine

/-! ### What steps and runs keep -/

/-- 10_state.md R17: whatever a step does, it writes no part of the configuration. -/
theorem step_cfg {s s' : State} (h : step s = .next s') : s'.cfg = s.cfg := by
  obtain ⟨-, ⟨-, rfl⟩ | ⟨_, _, _, -, -, rfl⟩ | ⟨_, _, _, -, -, rfl⟩ | ⟨_, -, rfl⟩⟩ := step_cases h
  · rfl
  · rw [withResult_cfg, withInputs_cfg]
  · rw [withRefusal_cfg, withInputs_cfg]
  · rw [afterReset_cfg, withInputs_cfg]

/-- What every step keeps, every run keeps. -/
theorem runSteps_keeps {P : State → Prop} (hstep : ∀ s t : State, step s = .next t → P s → P t) (n : Nat) :
    ∀ s s' : State, runSteps n s = .next s' → P s → P s' := by
  induction n with
  | zero =>
    intro s s' hrun hs
    cases hrun
    exact hs
  | succ n ih =>
    intro s s' hrun hs
    obtain ⟨t, hfirst, hrest⟩ := runSteps_cases hrun
    exact ih t s' hrest (hstep s t hfirst hs)

/-! ### A request placed ahead of all others -/

@[simp] theorem withFetchWord_cfg (s : State) (nbits w : Nat) : (s.withFetchWord nbits w).cfg = s.cfg := rfl
@[simp] theorem withFetchWord_inputs (s : State) (nbits w : Nat) :
    (s.withFetchWord nbits w).inputs = .request (BitVec.ofNat 72 (w % 2 ^ nbits)) :: s.inputs := rfl

/-- Taking the placed request leaves the state it was issued in. -/
@[simp] theorem withFetchWord_withInputs (s : State) (nbits w : Nat) :
    (s.withFetchWord nbits w).withInputs s.inputs = s := rfl

/-- The step after a placement evaluates the placed word at the state it was issued in (log entry 4). -/
theorem step_withFetchWord {s : State} (nbits w : Nat) (hwf : s.cfg.wf = true) :
    step (s.withFetchWord nbits w) = evaluateRequest (BitVec.ofNat 72 (w % 2 ^ nbits)) s := by
  have hwf' : (s.withFetchWord nbits w).cfg.wf = true := by rw [withFetchWord_cfg, hwf]
  rw [step_of_inputs_cons hwf' (withFetchWord_inputs s nbits w), withFetchWord_withInputs, takeInput]

/-! ### Reading the port, and the machine after reset -/

theorem readResult_of_port_none {s : State} (h : s.port = none) : s.readResult = .fault .noResult := by
  simp only [State.readResult, h]

theorem readResult_of_port_some {s : State} {r : Result} (h : s.port = some r) : s.readResult = .next r.word := by
  simp only [State.readResult, h]

/-- With an empty record and nothing issued, a well-formed configuration is all the invariant asks (10_state.md R23). -/
theorem resetOf_inv {c : Cfg} (hwf : c.wf = true) : (State.resetOf c).Inv where
  cfgWf := hwf
  markIsRefusals := rfl
  portIsLast := by simp only [resetOf_port, reduceCtorEq, false_implies, implies_true]
  traceShown := by simp only [resetOf_trace, List.not_mem_nil, false_implies, implies_true]
  inputsFit := by simp only [resetOf_inputs, List.not_mem_nil, false_implies, implies_true]

/-- The reference instantiation meets every rule of 30_encoding.md R52. -/
theorem reference_wf : Cfg.reference.wf = true := by decide

end Sys2Proof.Machine

namespace Sys2Proof.Claims

open Sys2Proof.Machine

/-- Settles O33: no step writes the configuration, so no run does. -/
theorem configurationNeverChanges : Obligations.ConfigurationNeverChanges := by
  unfold Obligations.ConfigurationNeverChanges
  intro n s s' hrun
  have hstep (a b : State) (h : step a = .next b) (ha : a.cfg = s.cfg) : b.cfg = s.cfg := (step_cfg h).trans ha
  exact runSteps_keeps hstep n s s' hrun rfl

/-- Settles O8: the step takes the placed word and so evaluates it at the state before the placement. -/
theorem requestPlacedAheadRunsNext : Obligations.RequestPlacedAheadRunsNext := by
  unfold Obligations.RequestPlacedAheadRunsNext
  intro s nbits w i hwf hd
  rw [step_withFetchWord nbits w hwf, evaluateRequest_of_accepted hd, exec_eq]

/-- Settles O15: the port is empty after reset, and every instruction delivers a result there. -/
theorem portHasNoValueUntilARequestIsEvaluated : Obligations.PortHasNoValueUntilARequestIsEvaluated := by
  unfold Obligations.PortHasNoValueUntilARequestIsEvaluated
  intro c
  refine ⟨resetOf_cfg c, rfl, readResult_of_port_none (resetOf_port c), fun i => ?_⟩
  have hport := withResult_port (State.resetOf c) (resultOf c i)
  exact ⟨_, _, exec_eq i (State.resetOf c), hport, readResult_of_port_some hport⟩

/-- Settles O34: an instruction only delivers its result, which writes the port and extends the trace. -/
theorem operationsChangeOnlyPortAndTrace : Obligations.OperationsChangeOnlyPortAndTrace := by
  unfold Obligations.OperationsChangeOnlyPortAndTrace
  intro i s
  exact ⟨_, resultOf s.cfg i, exec_eq i s, withResult_cfg _ _, withResult_inputs _ _, withResult_mark _ _,
    withResult_port _ _, withResult_trace _ _⟩

/-- Settles O37: the reference instantiation is well formed, and reset of any well-formed build has a clear record. -/
theorem runRecordIsGoodAtReset : Obligations.RunRecordIsGoodAtReset := by
  unfold Obligations.RunRecordIsGoodAtReset
  exact ⟨resetOf_inv reference_wf, fun _ hwf => resetOf_inv hwf⟩

end Sys2Proof.Claims

/-! PROOFS of the family of 20_memory.md: the order in which the block takes its inputs. -/

namespace Sys2Proof.Machine

/-! ### Issuing an input commutes with taking the earlier ones -/

theorem withResult_issue (s : State) (r : Result) (x : Input) :
    (s.withResult r).issue x = (s.issue x).withResult r := rfl

theorem withRefusal_issue (s : State) (r : RefusalReason) (x : Input) :
    (s.withRefusal r).issue x = (s.issue x).withRefusal r := rfl

theorem afterReset_issue (s : State) (x : Input) : s.afterReset.issue x = (s.issue x).afterReset := rfl

/-- Issuing behind what remains, and taking the head of an input list with one more at its end, give one state. -/
theorem withInputs_issue (s : State) (rest : List Input) (x : Input) :
    (s.withInputs rest).issue x = (s.issue x).withInputs (rest ++ [x]) := rfl

/-- What an input does, it does whether or not another one is issued behind it. -/
theorem takeInput_issue {y : Input} {s t : State} (x : Input) (h : takeInput y s = .next t) :
    takeInput y (s.issue x) = .next (t.issue x) := by
  cases y with
  | request w =>
    rw [takeInput] at h ⊢
    cases hd : decode s.cfg.tempW (portWord s.cfg w) with
    | accepted i =>
      cases (evaluateRequest_of_accepted hd).symm.trans h
      rw [withResult_issue]
      exact evaluateRequest_of_accepted hd
    | refused r =>
      cases (evaluateRequest_of_refused hd).symm.trans h
      rw [withRefusal_issue]
      exact evaluateRequest_of_refused hd
  | reset =>
    cases h
    rw [afterReset_issue, takeInput]
  | requestCutByReset w =>
    cases h
    rw [afterReset_issue, takeInput]

/-- While an earlier input stands at the head, a step takes that one and leaves the newly issued one last. -/
theorem step_issue {s t : State} {y : Input} {rest : List Input} (x : Input) (hin : s.inputs = y :: rest)
    (h : step s = .next t) : step (s.issue x) = .next (t.issue x) := by
  obtain ⟨hwf, -⟩ := step_cases h
  have hin' : (s.issue x).inputs = y :: (rest ++ [x]) := by rw [issue_inputs, hin, List.cons_append]
  rw [step_of_inputs_cons hwf hin] at h
  rw [step_of_inputs_cons (s := s.issue x) hwf hin', ← withInputs_issue]
  exact takeInput_issue x h

/-- A step that answers a next state leaves the inputs behind the oldest one. -/
theorem step_inputs {s t : State} {y : Input} {rest : List Input} (hin : s.inputs = y :: rest)
    (h : step s = .next t) : t.inputs = rest := by
  obtain ⟨hwf, -⟩ := step_cases h
  obtain ⟨t', ht', -, hinputs, -⟩ := step_takes_oldest hwf hin
  cases h.symm.trans ht'
  exact hinputs

/-- A run over all earlier inputs leaves the newly issued one alone, in the state reached without it. -/
theorem runSteps_issue (x : Input) (l : List Input) : ∀ s s' : State, s.inputs = l →
    runSteps l.length s = .next s' →
    runSteps l.length (s.issue x) = .next (s'.issue x) ∧ (s'.issue x).inputs = [x] := by
  induction l with
  | nil =>
    intro s s' hin hrun
    cases hrun
    exact ⟨rfl, by rw [issue_inputs, hin, List.nil_append]⟩
  | cons y rest ih =>
    intro s s' hin hrun
    obtain ⟨t, hstep, hrest⟩ := runSteps_cases hrun
    obtain ⟨hrun', hlast⟩ := ih t s' (step_inputs hin hstep) hrest
    exact ⟨(runSteps_of_next _ (step_issue x hin hstep)).trans hrun', hlast⟩

end Sys2Proof.Machine

namespace Sys2Proof.Claims

open Sys2Proof.Machine

/-- Settles O40, by induction on the inputs issued before `x`: a step on the oldest of them commutes with issuing `x`. -/
theorem inputsAreTakenInIssueOrder : Obligations.InputsAreTakenInIssueOrder := by
  unfold Obligations.InputsAreTakenInIssueOrder
  exact fun s s' x => runSteps_issue x s.inputs s s' rfl

/-- Settles O7: the step takes the oldest input, and evaluating an accepted word runs its instruction. -/
theorem stepRunsTheDecodedRequest : Obligations.StepRunsTheDecodedRequest := by
  unfold Obligations.StepRunsTheDecodedRequest
  intro s w rest i hwf hin hd
  calc step s
    _ = evaluateRequest w (s.withInputs rest) := step_of_inputs_cons hwf hin
    _ = .next ((s.withInputs rest).withResult (resultOf s.cfg i)) := evaluateRequest_of_accepted hd
    _ = exec i (s.withInputs rest) := (exec_eq i (s.withInputs rest)).symm

end Sys2Proof.Claims

/-! PROOFS of the family of 30_encoding.md, the request word: its fields, the decoder and the encoder. -/

namespace Sys2Proof

/-! ### The fields of a request word -/

@[simp] theorem ctlOf_toNat (W : Nat) (req : BitVec (W + 8)) : (ctlOf W req).toNat = req.toNat % 256 := by
  simp [ctlOf, BitVec.extractLsb'_toNat]

@[simp] theorem opdOf_toNat (W : Nat) (req : BitVec (W + 8)) : (opdOf W req).toNat = req.toNat / 256 := by
  have hlt : req.toNat / 256 < 2 ^ W := by
    have := req.isLt
    rw [Nat.pow_add] at this
    omega
  rw [opdOf, BitVec.extractLsb'_toNat, Nat.shiftRight_eq_div_pow, Nat.mod_eq_of_lt hlt]

/-- The two fields make up the whole word (30_encoding.md R34). -/
theorem opdOf_append_ctlOf (W : Nat) (req : BitVec (W + 8)) : opdOf W req ++ ctlOf W req = req := by
  apply BitVec.eq_of_toNat_eq
  rw [BitVec.toNat_append, ← Nat.shiftLeft_add_eq_or_of_lt (ctlOf W req).isLt, Nat.shiftLeft_eq, opdOf_toNat,
    ctlOf_toNat]
  omega

@[simp] theorem opdOf_encode (W : Nat) (i : Instr) : opdOf W (encode W i) = opdBits W i := by
  apply BitVec.eq_of_getLsbD_eq
  intro k hk
  simp [opdOf, encode, BitVec.getLsbD_append, hk]

theorem reservedOf_eq_zero_iff : ∀ ctl : BitVec 8, reservedOf ctl = 0#6 ↔ ctl.toNat / 4 = 0 := by
  decide

/-- With its reserved bits 0, a control byte is the one of the operation it selects (30_encoding.md R35, R38). -/
theorem eq_ctlBits_of_reservedOf :
    ∀ ctl : BitVec 8, reservedOf ctl = 0#6 → ctl = ctlBits (opOfBits (opBitsOf ctl)) := by
  decide

theorem ctlOf_eq_ctlBits_iff (W : Nat) (req : BitVec (W + 8)) (o : Op) :
    ctlOf W req = ctlBits o ↔ req.toNat % 256 = (opBits o).toNat := by
  have hctl : (ctlBits o).toNat = (opBits o).toNat := by cases o <;> rfl
  rw [← BitVec.toNat_inj, ctlOf_toNat, hctl]

theorem aboveByte_eq_zero_iff {W : Nat} (hW : 8 ≤ W) (opd : BitVec W) :
    aboveByte W opd = 0#(W - 8) ↔ opd.toNat < 256 := by
  have hlt : opd.toNat / 256 < 2 ^ (W - 8) := by
    have hpow : 2 ^ W = 256 * 2 ^ (W - 8) := (pow_mul_pow_sub 2 hW).symm
    have := opd.isLt
    omega
  rw [← BitVec.toNat_inj, aboveByte, BitVec.extractLsb'_toNat, Nat.shiftRight_eq_div_pow, Nat.mod_eq_of_lt hlt,
    BitVec.toNat_ofNat, Nat.zero_mod]
  omega

theorem byteOperand_eq_setWidth {W : Nat} (hW : 8 ≤ W) (opd : BitVec W) : byteOperand W opd = opd.setWidth 8 :=
  (BitVec.setWidth_eq_extractLsb' hW).symm

/-! ### Signed operands -/

theorem inSignedRange_iff (W : Nat) (n : Int) :
    inSignedRange W n = true ↔ -(2 ^ (W - 1) : Int) ≤ n ∧ n < (2 ^ (W - 1) : Int) := by
  simp [inSignedRange]

/-- Every bit pattern is a legal signed operand (30_encoding.md R36). -/
theorem signedOperand_inSignedRange (W : Nat) (opd : BitVec W) : inSignedRange W (signedOperand W opd) = true := by
  rw [inSignedRange_iff]
  exact ⟨opd.le_toInt, opd.toInt_lt⟩

theorem signedOperand_ofInt {W : Nat} (hW : 8 ≤ W) {n : Int} (h : inSignedRange W n = true) :
    signedOperand W (BitVec.ofInt W n) = n := by
  obtain ⟨hlow, hhigh⟩ := (inSignedRange_iff W n).1 h
  exact BitVec.toInt_ofInt_eq_self (by omega) hlow hhigh

theorem ofInt_signedOperand (W : Nat) (opd : BitVec W) : BitVec.ofInt W (signedOperand W opd) = opd :=
  BitVec.ofInt_toInt

/-- The signed operand as a two's-complement value, by arithmetic (00_scope.md R5, R11). -/
theorem signedOperand_eq_signedValue {W : Nat} (hW : 8 ≤ W) (opd : BitVec W) :
    signedOperand W opd = Claims.signedValue W opd.toNat := by
  have hhalf : 2 * opd.toNat < 2 ^ W ↔ opd.toNat < 2 ^ (W - 1) := by
    rw [← mul_pow_sub_one (show W ≠ 0 by omega) 2]
    omega
  simp only [signedOperand, BitVec.toInt_eq_toNat_cond, hhalf, Claims.signedValue, Nat.cast_pow, Nat.cast_ofNat]

/-! ### Decoding an operand for a selected operation -/

/-- What the decoder makes of an operand field once the control byte has selected `o` (30_encoding.md R36, R37). -/
def decodeOperand (W : Nat) (opd : BitVec W) : Op → Decoded
  | .dec => .accepted (.dec (signedOperand W opd))
  | .hex =>
    if aboveByte W opd ≠ 0#(W - 8) then .refused .hexOperandRange else .accepted (.hex (byteOperand W opd))
  | .fmt => .accepted (.fmt (signedOperand W opd))
  | .lut => .accepted (.lut (signedOperand W opd))

/-- A word with reserved bits set is refused, whatever else it holds (60_exceptions.md R70). -/
theorem decode_of_reserved {W : Nat} {req : BitVec (W + 8)} (h : reservedOf (ctlOf W req) ≠ 0#6) :
    decode W req = .refused .reservedCtl := by
  simp only [decode, h, ne_eq, not_false_eq_true, if_true]

theorem decode_of_ctlOf {W : Nat} {req : BitVec (W + 8)} {o : Op} (h : ctlOf W req = ctlBits o) :
    decode W req = decodeOperand W (opdOf W req) o := by
  obtain ⟨hrsv, hop⟩ := Laws.ctlBits_fields o
  simp only [decode, h, hrsv, hop, ne_eq, not_true_eq_false, if_false]
  cases o <;> rfl

/-- Everything the decoder can do (30_encoding.md R40). -/
theorem decode_cases (W : Nat) (req : BitVec (W + 8)) :
    (reservedOf (ctlOf W req) ≠ 0#6 ∧ decode W req = .refused .reservedCtl) ∨
    ∃ o, ctlOf W req = ctlBits o ∧ decode W req = decodeOperand W (opdOf W req) o := by
  by_cases h : reservedOf (ctlOf W req) = 0#6
  · have hctl := eq_ctlBits_of_reservedOf _ h
    exact .inr ⟨_, hctl, decode_of_ctlOf hctl⟩
  · exact .inl ⟨h, decode_of_reserved h⟩

theorem decodeOperand_hex_of_lt {W : Nat} (hW : 8 ≤ W) {opd : BitVec W} (h : opd.toNat < 256) :
    decodeOperand W opd .hex = .accepted (.hex (BitVec.ofNat 8 opd.toNat)) := by
  simp only [decodeOperand, (aboveByte_eq_zero_iff hW opd).2 h, ne_eq, not_true_eq_false, if_false,
    byteOperand_eq_setWidth hW, BitVec.ofNat_toNat]

theorem decodeOperand_hex_of_ge {W : Nat} (hW : 8 ≤ W) {opd : BitVec W} (h : 256 ≤ opd.toNat) :
    decodeOperand W opd .hex = .refused .hexOperandRange := by
  have hne : aboveByte W opd ≠ 0#(W - 8) := fun h0 => by
    have := (aboveByte_eq_zero_iff hW opd).1 h0
    omega
  simp only [decodeOperand, hne, ne_eq, not_false_eq_true, if_true]

/-- Only HEX refuses an operand, and only one that is no byte (30_encoding.md R37). -/
theorem decodeOperand_refused_iff {W : Nat} (hW : 8 ≤ W) (opd : BitVec W) (o : Op) (r : RefusalReason) :
    decodeOperand W opd o = .refused r ↔ o = .hex ∧ r = .hexOperandRange ∧ 256 ≤ opd.toNat := by
  cases o with
  | hex =>
    rcases Nat.lt_or_ge opd.toNat 256 with h | h
    · simp [decodeOperand_hex_of_lt hW h, h]
    · simp [decodeOperand_hex_of_ge hW h, h, eq_comm]
  | dec | fmt | lut => simp [decodeOperand]

/-- The operand field of a well-formed instruction decodes to it. -/
theorem decodeOperand_opdBits {W : Nat} (hW : 8 ≤ W) {i : Instr} (h : i.wf W = true) :
    decodeOperand W (opdBits W i) i.op = .accepted i := by
  cases i with
  | dec | fmt | lut => simp only [Instr.op, opdBits, decodeOperand, signedOperand_ofInt hW h]
  | hex b =>
    have hb : (b.setWidth W).toNat = b.toNat := BitVec.toNat_setWidth_of_le hW
    rw [Instr.op, opdBits, decodeOperand_hex_of_lt hW (hb ▸ b.isLt), hb, BitVec.ofNat_toNat, BitVec.setWidth_eq]

/-- An operand field that decodes to an instruction is that instruction's operand field. -/
theorem decodeOperand_accepted {W : Nat} (hW : 8 ≤ W) {opd : BitVec W} {o : Op} {i : Instr}
    (h : decodeOperand W opd o = .accepted i) : i.op = o ∧ i.wf W = true ∧ opdBits W i = opd := by
  cases o with
  | dec | fmt | lut =>
    cases h
    exact ⟨rfl, signedOperand_inSignedRange W opd, ofInt_signedOperand W opd⟩
  | hex =>
    rcases Nat.lt_or_ge opd.toNat 256 with hlt | hge
    · cases (decodeOperand_hex_of_lt hW hlt).symm.trans h
      refine ⟨rfl, rfl, BitVec.eq_of_toNat_eq ?_⟩
      rw [opdBits, BitVec.toNat_setWidth_of_le hW, BitVec.toNat_ofNat, Nat.mod_eq_of_lt hlt]
    · cases (decodeOperand_hex_of_ge hW hge).symm.trans h

end Sys2Proof

namespace Sys2Proof.Claims

/-- Settles O1: the encoded word's control byte selects the instruction's operation, and its operand field decodes
to the instruction. -/
theorem decodeOfEncodeIsTheInstruction : Obligations.DecodeOfEncodeIsTheInstruction := by
  unfold Obligations.DecodeOfEncodeIsTheInstruction
  intro W i hW hwf
  rw [decode_of_ctlOf (Laws.ctlOf_encode W i), opdOf_encode, decodeOperand_opdBits hW hwf]

/-- Settles O2: an accepted word has the control byte and the operand field of the instruction it decodes to. -/
theorem acceptedWordIsTheInstructionsOnlyWord : Obligations.AcceptedWordIsTheInstructionsOnlyWord := by
  unfold Obligations.AcceptedWordIsTheInstructionsOnlyWord
  intro W req i hW hdec
  obtain ⟨-, hrefused⟩ | ⟨o, hctl, hopd⟩ := decode_cases W req
  · cases hrefused.symm.trans hdec
  · obtain ⟨rfl, hwf, hbits⟩ := decodeOperand_accepted hW (hopd.symm.trans hdec)
    exact ⟨hwf, by rw [encode, hbits, ← hctl, opdOf_append_ctlOf]⟩

/-- Settles O3: reserved bits are refused first; past them only HEX refuses, and only an operand that is no byte. -/
theorem refusedWordsAndTheirReasons : Obligations.RefusedWordsAndTheirReasons := by
  unfold Obligations.RefusedWordsAndTheirReasons
  intro W req hW
  obtain ⟨hrsv, hdec⟩ | ⟨o, hctl, hdec⟩ := decode_cases W req
  · rw [Ne, reservedOf_eq_zero_iff, ctlOf_toNat] at hrsv
    exact ⟨iff_of_true hdec hrsv, iff_of_false (by simp [hdec]) (by omega)⟩
  · have hop := (ctlOf_eq_ctlBits_iff W req o).1 hctl
    have hsmall : (opBits o).toNat < 4 := (opBits o).isLt
    have hhex : o = .hex ↔ req.toNat % 256 = 1 := by rw [hop]; cases o <;> decide
    rw [hdec, decodeOperand_refused_iff hW, decodeOperand_refused_iff hW, opdOf_toNat, hhex]
    exact ⟨iff_of_false (by simp) (by omega), by simp only [true_and]; omega⟩

/-- Settles O4: each of the four control bytes selects its operation, which reads the operand field. -/
theorem wordFieldsSelectOperationAndOperand : Obligations.WordFieldsSelectOperationAndOperand := by
  unfold Obligations.WordFieldsSelectOperationAndOperand
  intro W req hW
  have hdec (o : Op) (h : req.toNat % 256 = (opBits o).toNat) : decode W req = decodeOperand W (opdOf W req) o :=
    decode_of_ctlOf ((ctlOf_eq_ctlBits_iff W req o).2 h)
  have hsigned : signedOperand W (opdOf W req) = signedValue W (req.toNat / 256) := by
    rw [signedOperand_eq_signedValue hW, opdOf_toNat]
  refine ⟨fun h => ?_, fun h hbyte => ?_, fun h => ?_, fun h => ?_⟩
  · rw [hdec .dec h, decodeOperand, hsigned]
  · rw [hdec .hex h, decodeOperand_hex_of_lt hW (by rwa [opdOf_toNat]), opdOf_toNat]
  · rw [hdec .fmt h, decodeOperand, hsigned]
  · rw [hdec .lut h, decodeOperand, hsigned]

/-- Settles O5: the decoder evaluates on each of the seven words. -/
theorem writtenOutWordsDecode : Obligations.WrittenOutWordsDecode := by
  unfold Obligations.WrittenOutWordsDecode
  decide

end Sys2Proof.Claims

/-! PROOFS of the family of 30_encoding.md, the results: the result word, the HEX glyphs and the segments a pattern
lights. -/

namespace Sys2Proof.Machine

/-! ### The result word -/

/-- Element k stands at bits [8k+7:8k] of the packed word, and those bits are 0 where there is no element
(30_encoding.md R39). -/
theorem packPatterns_extractLsb' (ps : List Pattern) : ∀ k : Nat, k < 8 →
    (packPatterns ps).extractLsb' (8 * k) 8 = (ps[k]?).getD 0#8 := by
  induction ps with
  | nil => intro k _; simp [packPatterns]
  | cons p ps ih =>
    intro k hk
    cases k with
    | zero =>
      apply BitVec.eq_of_getLsbD_eq
      intro j hj
      have hj64 : j < 64 := by omega
      simp [packPatterns, hj, hj64]
    | succ k =>
      rw [List.getElem?_cons_succ, ← ih k (by omega)]
      apply BitVec.eq_of_getLsbD_eq
      intro j hj
      have hin : 8 * (k + 1) + j < 64 := by omega
      have hshift : 8 * (k + 1) + j - 8 = 8 * k + j := by omega
      have habove : p.getLsbD (8 * (k + 1) + j) = false := p.getLsbD_of_ge _ (by omega)
      have hnot : ¬ 8 * (k + 1) + j < 8 := by omega
      simp only [packPatterns, BitVec.getLsbD_extractLsb', BitVec.getLsbD_or, BitVec.getLsbD_setWidth,
        BitVec.getLsbD_shiftLeft, hj, hin, hnot, hshift, habove, decide_true, decide_false, Bool.not_false,
        Bool.and_false, Bool.false_or, Bool.true_and]

theorem resultCount_le (o : Op) : o.resultCount ≤ 8 := by cases o <;> decide

/-- Element k of any instruction's result word (30_encoding.md R39). -/
theorem resultOf_word_element (c : Cfg) (i : Instr) (k : Nat) :
    (resultOf c i).word.extractLsb' (8 * k) 8 = ((resultOf c i).patterns[k]?).getD 0#8 := by
  rcases Nat.lt_or_ge k 8 with hk | hk
  · exact packPatterns_extractLsb' _ k hk
  · have hlen : (resultOf c i).patterns.length ≤ k := by
      rw [resultOf_length]
      exact (resultCount_le _).trans hk
    rw [List.getElem?_eq_none hlen, Option.getD_none]
    apply BitVec.eq_of_getLsbD_eq
    intro j _
    rw [BitVec.getLsbD_extractLsb', BitVec.getLsbD_of_ge _ _ (by omega), Bool.and_false, BitVec.getLsbD_zero]

/-- A step over a refused request records the refusal (60_exceptions.md R68). -/
theorem step_of_refused {s : State} {w : ReqWord} {rest : List Input} {r : RefusalReason} (hwf : s.cfg.wf = true)
    (hin : s.inputs = .request w :: rest) (hd : decode s.cfg.tempW (portWord s.cfg w) = .refused r) :
    step s = .next ((s.withInputs rest).withRefusal r) :=
  (step_of_inputs_cons hwf hin).trans (evaluateRequest_of_refused hd)

/-! ### HEX read back -/

theorem hexLookup_inj {c : Cfg} (hwf : c.wf = true) {d d' : BitVec 4} (h : hexLookup c d = hexLookup c d') : d = d' :=
  BitVec.eq_of_toNat_eq (Cfg.wf_hexTable_inj hwf d.toNat d'.toNat d.isLt d'.isLt h)

theorem hiNibble_append_loNibble : ∀ b : BitVec 8, hiNibble b ++ loNibble b = b := by decide

/-- Under a well-formed configuration the pair of glyphs names the byte, in either order (30_encoding.md R49 (b)). -/
theorem hexPair_inj {c : Cfg} (hwf : c.wf = true) {b b' : BitVec 8} (h : hexPair c b = hexPair c b') : b = b' := by
  have hglyphs : hexLookup c (hiNibble b) = hexLookup c (hiNibble b') ∧
      hexLookup c (loNibble b) = hexLookup c (loNibble b') := by
    unfold hexPair at h
    cases hord : c.hexOrder with
    | hiFirst => simpa only [hord, Result.two.injEq] using h
    | loFirst => simpa only [hord, Result.two.injEq, and_comm] using h
  obtain ⟨hhi, hlo⟩ := hglyphs
  rw [← hiNibble_append_loNibble b, hexLookup_inj hwf hhi, hexLookup_inj hwf hlo, hiNibble_append_loNibble]

/-! ### The segments a pattern lights -/

/-- The eight segments of a well-formed configuration take every bit position once (30_encoding.md R43). -/
theorem segment_bits_perm {c : Cfg} (hwf : c.wf = true) :
    (Segment.all.map c.segmap.bit).Perm (List.finRange 8) := by
  obtain ⟨-, hseg, -⟩ := c.wf_iff.1 hwf
  have hnodup : (Segment.all.map c.segmap.bit).Nodup := of_decide_eq_true hseg
  have hsub : (Segment.all.map c.segmap.bit).Subperm (List.finRange 8) :=
    List.subperm_of_subset hnodup fun _ _ => List.mem_finRange _
  exact hsub.perm_of_length_le (by simp [Segment.all])

/-- A pattern lights as many segments as it has 1 bits (30_encoding.md R42, R43). -/
theorem litSegments_length {c : Cfg} (hwf : c.wf = true) (p : Pattern) : (litSegments c p).length = popcount p := by
  calc (litSegments c p).length
    _ = Segment.all.countP ((fun b : Fin 8 => p.getLsbD b.val) ∘ c.segmap.bit) := List.countP_eq_length_filter.symm
    _ = (Segment.all.map c.segmap.bit).countP (fun b => p.getLsbD b.val) := List.countP_map.symm
    _ = (List.finRange 8).countP (fun b => p.getLsbD b.val) := (segment_bits_perm hwf).countP_eq _
    _ = popcount p := rfl

/-- A pattern lights DP exactly when it carries the decimal-point bit (30_encoding.md R43). -/
theorem lights_dp_iff (c : Cfg) (p : Pattern) : lights c p .dp = true ↔ p &&& c.dpMask ≠ 0#8 := by
  have hmask (b : Fin 8) : ∀ p : Pattern, p.getLsbD b.val = true ↔ p &&& 1#8 <<< b.val ≠ 0#8 := by
    revert b; decide
  exact hmask c.segmap.dp p

end Sys2Proof.Machine

namespace Sys2Proof.Claims

open Sys2Proof.Machine

/-- An instruction delivers its result and no other. -/
theorem delivers_iff (i : Instr) (s : State) (r : Result) : Delivers i s r ↔ r = resultOf s.cfg i := by
  constructor
  · intro h
    have hstate : s.withResult (resultOf s.cfg i) = s.withResult r :=
      Host.Outcome.next.inj ((exec_eq i s).symm.trans h)
    have hport : some (resultOf s.cfg i) = some r := congrArg State.port hstate
    exact (Option.some.inj hport).symm
  · rintro rfl
    exact delivers_resultOf i s

/-- Settles O20: one result is one pair of glyphs, and the 16 HEX glyphs are distinct. -/
theorem hexDumpCanBeReadBack : Obligations.HexDumpCanBeReadBack := by
  unfold Obligations.HexDumpCanBeReadBack
  intro s b b' r hwf h h'
  rw [delivers_iff] at h h'
  exact hexPair_inj hwf (h.symm.trans h')

/-- Settles O30, by induction on the elements packed; a refused request empties the port. -/
theorem resultWordPacksTheElements : Obligations.ResultWordPacksTheElements := by
  unfold Obligations.ResultWordPacksTheElements
  refine ⟨fun i s => ⟨_, delivers_resultOf i s, resultOf_length s.cfg i, resultOf_word_element s.cfg i⟩, ?_⟩
  intro s t w rest r hin hd hstep
  obtain ⟨hwf, -⟩ := step_cases hstep
  cases (step_of_refused hwf hin hd).symm.trans hstep
  rw [State.resultWord, withRefusal_port, Option.map_none]

/-- Settles O31: a pattern lights one segment for each 1 bit of it, and FALLBACK does not carry the decimal point. -/
theorem fallbackLightsOneSegmentBlankLightsNone : Obligations.FallbackLightsOneSegmentBlankLightsNone := by
  unfold Obligations.FallbackLightsOneSegmentBlankLightsNone
  intro c hwf
  obtain ⟨hone, hdp⟩ := Cfg.wf_fallback hwf
  have hblank : popcount blankGlyph = 0 := by decide
  obtain ⟨x, hx⟩ := List.length_eq_one_iff.1 ((litSegments_length hwf c.fallback).trans hone)
  refine ⟨⟨x, ?_, hx⟩, List.length_eq_zero_iff.1 ((litSegments_length hwf blankGlyph).trans hblank)⟩
  rintro rfl
  have hlit : Segment.dp ∈ litSegments c c.fallback := by rw [hx]; exact List.mem_singleton_self _
  exact (lights_dp_iff c c.fallback).1 (List.mem_filter.1 hlit).2 hdp

end Sys2Proof.Claims

/-! PROOFS of the family of 30_encoding.md, the assembler: digits, numerals, operands, mnemonics and lines (R41). -/

namespace Sys2Proof.Machine

open Sys2Proof.Claims

/-! ### Digits -/

/-- The character of a decimal digit. -/
def decimalChar (d : Fin 10) : Char := Char.ofNat (48 + d.val)

theorem digitValue_decimalChar : ∀ d : Fin 10, digitValue 10 (decimalChar d) = some d.val := by decide

theorem digitValue_hexDigit (h : HexDigit) : digitValue 16 h.char = some h.value.val := by
  have hall : ∀ (v : Fin 16) (cap : Bool), digitValue 16 (HexDigit.char ⟨v, cap⟩) = some v.val := by decide
  exact hall h.value h.capital

/-- The three runs of characters that are digits (log entry 7). -/
theorem digitValue_cases {base : Nat} {ch : Char} {v : Nat} (h : digitValue base ch = some v) : v < base ∧
    ((48 ≤ ch.toNat ∧ ch.toNat ≤ 57 ∧ v = ch.toNat - 48) ∨ (65 ≤ ch.toNat ∧ ch.toNat ≤ 70 ∧ v = ch.toNat - 55) ∨
      (97 ≤ ch.toNat ∧ ch.toNat ≤ 102 ∧ v = ch.toNat - 87)) := by
  simp only [digitValue, Option.filter_eq_some_iff, decide_eq_true_eq] at h
  obtain ⟨hv, hbase⟩ := h
  refine ⟨hbase, ?_⟩
  split at hv
  · cases hv; omega
  · split at hv
    · cases hv; omega
    · split at hv
      · cases hv; omega
      · cases hv

theorem eq_decimalChar_of_digitValue {ch : Char} {v : Nat} (h : digitValue 10 ch = some v) :
    ∃ d : Fin 10, ch = decimalChar d ∧ v = d.val := by
  obtain ⟨hv, hrun⟩ := digitValue_cases h
  refine ⟨⟨v, hv⟩, ?_, rfl⟩
  rw [decimalChar, show 48 + v = ch.toNat by omega, Char.ofNat_toNat]

theorem eq_hexDigit_of_digitValue {ch : Char} {v : Nat} (h : digitValue 16 ch = some v) :
    ∃ d : HexDigit, ch = d.char ∧ v = d.value.val := by
  obtain ⟨hv, hdec | hcap | hlow⟩ := digitValue_cases h
  · refine ⟨⟨⟨v, hv⟩, true⟩, ?_, rfl⟩
    simp only [HexDigit.char, show v < 10 by omega, if_true, show 48 + v = ch.toNat by omega, Char.ofNat_toNat]
  · refine ⟨⟨⟨v, hv⟩, true⟩, ?_, rfl⟩
    simp only [HexDigit.char, show ¬ v < 10 by omega, if_false, if_true, show 55 + v = ch.toNat by omega,
      Char.ofNat_toNat]
  · refine ⟨⟨⟨v, hv⟩, false⟩, ?_, rfl⟩
    simp only [HexDigit.char, show ¬ v < 10 by omega, Bool.false_eq_true, if_false,
      show 87 + v = ch.toNat by omega, Char.ofNat_toNat]

/-! ### Numerals over any digits -/

section Numerals

variable {α : Type} {base : Nat} {char : α → Char} {value : α → Nat}

theorem digitsValue_map (hchar : ∀ a, digitValue base (char a) = some (value a)) (l : List α) : ∀ acc : Nat,
    digitsValue base acc (l.map char) = some (l.foldl (fun acc a => acc * base + value a) acc) := by
  induction l with
  | nil => exact fun _ => rfl
  | cons a l ih =>
    intro acc
    simp only [List.map_cons, digitsValue, hchar, List.foldl_cons, ih]

theorem numeralValue_map (hchar : ∀ a, digitValue base (char a) = some (value a)) {l : List α} (hl : l ≠ []) :
    numeralValue base (l.map char) = some (l.foldl (fun acc a => acc * base + value a) 0) := by
  cases l with
  | nil => exact absurd rfl hl
  | cons a l => exact digitsValue_map hchar (a :: l) 0

theorem eq_map_of_digitsValue (hdigit : ∀ ch v, digitValue base ch = some v → ∃ a, ch = char a ∧ v = value a)
    (text : List Char) : ∀ acc v : Nat, digitsValue base acc text = some v →
    ∃ l : List α, text = l.map char ∧ v = l.foldl (fun acc a => acc * base + value a) acc := by
  induction text with
  | nil =>
    intro acc v h
    cases h
    exact ⟨[], rfl, rfl⟩
  | cons ch text ih =>
    intro acc v h
    rw [digitsValue] at h
    split at h
    case h_1 d hd =>
      obtain ⟨a, rfl, rfl⟩ := hdigit ch d hd
      obtain ⟨l, rfl, rfl⟩ := ih _ v h
      exact ⟨a :: l, rfl, rfl⟩
    case h_2 => cases h

theorem eq_map_of_numeralValue (hdigit : ∀ ch v, digitValue base ch = some v → ∃ a, ch = char a ∧ v = value a)
    {text : List Char} {v : Nat} (h : numeralValue base text = some v) :
    ∃ l : List α, l ≠ [] ∧ text = l.map char ∧ v = l.foldl (fun acc a => acc * base + value a) 0 := by
  cases text with
  | nil => cases h
  | cons ch text =>
    obtain ⟨l, hl, hv⟩ := eq_map_of_digitsValue hdigit (ch :: text) 0 v h
    refine ⟨l, ?_, hl, hv⟩
    rintro rfl
    cases hl

end Numerals

/-! ### Operands -/

theorem numeralValue_digitChars {ds : List (Fin 10)} (hds : ds ≠ []) :
    numeralValue 10 (digitChars ds) = some (digitsNumber ds) :=
  numeralValue_map digitValue_decimalChar hds

theorem eq_digitChars_of_numeralValue {text : List Char} {v : Nat} (h : numeralValue 10 text = some v) :
    ∃ ds : List (Fin 10), ds ≠ [] ∧ text = digitChars ds ∧ v = digitsNumber ds :=
  eq_map_of_numeralValue (fun _ _ => eq_decimalChar_of_digitValue) h

/-- A decimal numeral begins neither with `0x` nor with a sign, so it is read as a decimal operand. -/
theorem operandValue_of_numeralValue {text : List Char} {v : Nat} (h : numeralValue 10 text = some v) :
    operandValue text = some (v : Int) := by
  have hx : digitValue 10 'x' = none := by decide
  have hminus : digitValue 10 '-' = none := by decide
  have hzero : digitValue 10 '0' = some 0 := by decide
  unfold operandValue
  split
  · simp [numeralValue, digitsValue, hzero, hx] at h
  · simp [numeralValue, digitsValue, hminus] at h
  · rw [h, Option.map_some]

theorem operandValue_decimalText (neg : Bool) {ds : List (Fin 10)} (hds : ds ≠ []) :
    operandValue (decimalText neg ds) = some (decimalValue neg ds) := by
  have hnum := numeralValue_digitChars hds
  cases neg with
  | false => exact operandValue_of_numeralValue hnum
  | true => exact congrArg (Option.map fun v : Nat => -(v : Int)) hnum

theorem operandValue_hexText {hs : List HexDigit} (hhs : hs ≠ []) :
    operandValue (hexText hs) = some (hexNumber hs : Int) :=
  congrArg (Option.map fun v : Nat => (v : Int)) (numeralValue_map digitValue_hexDigit hhs)

/-- Only the two forms of operand have a value. -/
theorem spells_of_operandValue {operand : List Char} {v : Int} (h : operandValue operand = some v) :
    Spells operand v := by
  unfold operandValue at h
  split at h
  case h_1 rest =>
    obtain ⟨m, hm, rfl⟩ := Option.map_eq_some_iff.1 h
    obtain ⟨hs, hne, rfl, rfl⟩ := eq_map_of_numeralValue (fun _ _ => eq_hexDigit_of_digitValue) hm
    exact .inr ⟨hs, hne, rfl, rfl⟩
  case h_2 rest =>
    obtain ⟨m, hm, rfl⟩ := Option.map_eq_some_iff.1 h
    obtain ⟨ds, hne, rfl, rfl⟩ := eq_digitChars_of_numeralValue hm
    exact .inl ⟨true, ds, hne, rfl, rfl⟩
  case h_3 =>
    obtain ⟨m, hm, rfl⟩ := Option.map_eq_some_iff.1 h
    obtain ⟨ds, hne, rfl, rfl⟩ := eq_digitChars_of_numeralValue hm
    exact .inl ⟨false, ds, hne, rfl, rfl⟩

/-! ### Mnemonics, instructions and lines -/

theorem mnemonicOp_eq_some_iff (m : List Char) (o : Op) : mnemonicOp m = some o ↔ m = mnemonicText o := by
  constructor
  · intro h
    unfold mnemonicOp at h
    split at h <;> cases h <;> rfl
  · rintro rfl
    cases o <;> rfl

/-- An operation takes an operand value exactly as an instruction in range with that operand. -/
theorem instrOf_eq_some {W : Nat} {o : Op} {v : Int} {i : Instr} (h : instrOf W o v = some i) :
    i.op = o ∧ operandNumber i = v ∧ i.wf W = true := by
  cases o with
  | hex =>
    obtain ⟨⟨hlow, hhigh⟩, hi⟩ := Option.ite_none_right_eq_some.1 h
    cases hi
    refine ⟨rfl, ?_, rfl⟩
    rw [operandNumber, BitVec.toNat_ofInt]
    omega
  | dec | fmt | lut =>
    obtain ⟨hrange, hi⟩ := Option.ite_none_right_eq_some.1 h
    cases hi
    exact ⟨rfl, rfl, hrange⟩

/-- A line with a mnemonic and an operand of value `v` assembles to the word of the instruction they make, if any. -/
theorem assemble_mnemonicText (W : Nat) (o : Op) {operand : List Char} {v : Int} (hv : operandValue operand = some v) :
    assemble W (mnemonicText o ++ ' ' :: operand) = (instrOf W o v).map (encode W) := by
  cases o <;> simp only [mnemonicText, List.cons_append, List.nil_append, assemble, mnemonicOp, hv]

/-- A byte operand as HEX reads it, by its magnitude: the only value in range with a sign is `-0`. -/
theorem instrOf_hex (W : Nat) (v : Int) :
    instrOf W .hex v = if 0 ≤ v ∧ v ≤ 255 then some (.hex (BitVec.ofNat 8 v.natAbs)) else none := by
  rw [instrOf]
  split
  case isTrue h =>
    obtain ⟨m, rfl⟩ := Int.eq_ofNat_of_zero_le h.1
    rw [Int.natAbs_natCast, BitVec.ofInt_natCast]
  case isFalse => rfl

/-- The four lines over one operand text of value `v`, given what the two ranges of R41 say of `v`. -/
theorem assemble_lines {W : Nat} {operand : List Char} {v : Int} {inRange inByte : Prop} [Decidable inRange]
    [Decidable inByte] (hv : operandValue operand = some v) (hrange : inSignedRange W v = true ↔ inRange)
    (hbyte : 0 ≤ v ∧ v ≤ 255 ↔ inByte) :
    (assemble W (mnemonicText .dec ++ ' ' :: operand) = if inRange then some (encode W (.dec v)) else none) ∧
    (assemble W (mnemonicText .fmt ++ ' ' :: operand) = if inRange then some (encode W (.fmt v)) else none) ∧
    (assemble W (mnemonicText .lut ++ ' ' :: operand) = if inRange then some (encode W (.lut v)) else none) ∧
    (assemble W (mnemonicText .hex ++ ' ' :: operand) =
      if inByte then some (encode W (.hex (BitVec.ofNat 8 v.natAbs))) else none) := by
  have hline {o : Op} {i : Instr} {p : Prop} [Decidable p] (h : instrOf W o v = if p then some i else none) :
      assemble W (mnemonicText o ++ ' ' :: operand) = if p then some (encode W i) else none := by
    rw [assemble_mnemonicText W o hv, h, apply_ite (Option.map (encode W)), Option.map_some, Option.map_none]
  exact ⟨hline (by simp only [instrOf, hrange]), hline (by simp only [instrOf, hrange]),
    hline (by simp only [instrOf, hrange]), hline (by simp only [instrOf_hex, hbyte])⟩

/-- Nothing else assembles. -/
theorem assemble_eq_some {W : Nat} {text : List Char} {w : BitVec (W + 8)} (h : assemble W text = some w) :
    ∃ o operand v i, text = mnemonicText o ++ ' ' :: operand ∧ operandValue operand = some v ∧
      instrOf W o v = some i ∧ w = encode W i := by
  unfold assemble at h
  split at h
  case h_1 m0 m1 m2 operand =>
    split at h
    case h_1 o v ho hv =>
      obtain ⟨i, hi, rfl⟩ := Option.map_eq_some_iff.1 h
      refine ⟨o, operand, v, i, ?_, hv, hi, rfl⟩
      rw [← (mnemonicOp_eq_some_iff _ o).1 ho]
      rfl
    case h_2 => cases h
  case h_2 => cases h

end Sys2Proof.Machine

namespace Sys2Proof.Claims

open Sys2Proof.Machine

theorem natAbs_decimalValue (neg : Bool) (ds : List (Fin 10)) : (decimalValue neg ds).natAbs = digitsNumber ds := by
  cases neg with
  | false => exact Int.natAbs_natCast _
  | true => exact (Int.natAbs_neg _).trans (Int.natAbs_natCast _)

/-- Settles O6: the operand's text has its value, and each operation takes the values of its own range. -/
theorem assemblerAcceptsExactlyTheRange : Obligations.AssemblerAcceptsExactlyTheRange := by
  unfold Obligations.AssemblerAcceptsExactlyTheRange
  intro W ds neg hds _
  have hlines := assemble_lines (operandValue_decimalText neg hds) (inSignedRange_iff W _) Iff.rfl
  rw [natAbs_decimalValue] at hlines
  exact hlines

/-- Settles O41: the literal's text has its number as value, which has no sign, so only the upper bounds count. -/
theorem assemblerAcceptsHexLiteralsInRange : Obligations.AssemblerAcceptsHexLiteralsInRange := by
  unfold Obligations.AssemblerAcceptsHexLiteralsInRange
  intro W hs hhs _
  have hrange : inSignedRange W (hexNumber hs : Int) = true ↔ hexNumber hs < 2 ^ (W - 1) := by
    have hcast : ((2 ^ (W - 1) : Nat) : Int) = 2 ^ (W - 1) := by push_cast; rfl
    rw [inSignedRange_iff, ← hcast]
    omega
  have hbyte : 0 ≤ (hexNumber hs : Int) ∧ (hexNumber hs : Int) ≤ 255 ↔ hexNumber hs ≤ 255 := by omega
  have hlines := assemble_lines (operandValue_hexText hhs) hrange hbyte
  rw [Int.natAbs_natCast] at hlines
  exact hlines

/-- Settles O42: a text that assembles is a line whose operand has a value and whose instruction is in range. -/
theorem assemblerRejectsEveryOtherText : Obligations.AssemblerRejectsEveryOtherText := by
  unfold Obligations.AssemblerRejectsEveryOtherText
  intro W text w h
  obtain ⟨o, operand, v, i, htext, hv, hi, hw⟩ := assemble_eq_some h
  obtain ⟨rfl, rfl, hwf⟩ := instrOf_eq_some hi
  exact ⟨i, operand, htext, spells_of_operandValue hv, hwf, hw⟩

end Sys2Proof.Claims

/-! PROOFS of the family of 40_segment_encoder.md: the residue by place digits, the lookup, the HEX pair, and the
encoder's properties. -/

namespace Sys2Proof.Claims

/-! ### Decimal places in closed form -/

theorem placeDigit_zero (t : Int) : placeDigit t 0 = t.natAbs % 10 := by
  rw [placeDigit, pow_zero, Nat.div_one]

theorem placeGlyph_of_nonneg (c : Cfg) {t : Int} (h : 0 ≤ t) (i : Nat) :
    placeGlyph c t i = c.digit[placeDigit t i]'(placeDigit_lt t i) := if_pos (.inr (.inl h))

/-- FALLBACK is no digit pattern, so it is shown only for a non-zero digit of a negative value under TRUNCATED
(40_segment_encoder.md R53, R54). -/
theorem placeGlyph_eq_fallback_iff {c : Cfg} (hwf : c.wf = true) (t : Int) (i : Nat) :
    placeGlyph c t i = c.fallback ↔ ¬ (c.residueMode = .magnitude ∨ 0 ≤ t ∨ placeDigit t i = 0) := by
  unfold placeGlyph
  split
  case isTrue hdigit => exact iff_of_false (Cfg.wf_digit_ne_fallback hwf _ _) (not_not_intro hdigit)
  case isFalse hfallback => exact iff_of_true rfl hfallback

/-- No glyph of a decimal place carries the decimal point (30_encoding.md R45, R48). -/
theorem placeGlyph_dp {c : Cfg} (hwf : c.wf = true) (t : Int) (i : Nat) : placeGlyph c t i &&& c.dpMask = 0#8 := by
  unfold placeGlyph
  split
  case isTrue => exact Cfg.wf_digit_dp hwf _ _
  case isFalse => exact (Cfg.wf_fallback hwf).2

end Sys2Proof.Claims

namespace Sys2Proof.Machine

open Sys2Proof.Claims

/-! ### The residue and the lookup -/

/-- The residue is the last digit in MAGNITUDE, and in TRUNCATED for a value that is not negative or ends in 0
(40_segment_encoder.md R53). -/
theorem res_eq_placeDigit {m : ResidueMode} {n : Int} (h : m = .magnitude ∨ 0 ≤ n ∨ placeDigit n 0 = 0) :
    res m n = (placeDigit n 0 : Int) := by
  rw [placeDigit_zero] at h ⊢
  cases m with
  | magnitude => exact res_magnitude n
  | truncated =>
    obtain hmode | hnonneg | hzero := h
    · cases hmode
    · exact res_of_nonneg _ hnonneg
    · rw [res_truncated, trem_eq_int_tmod, hzero]
      exact Int.tmod_eq_zero_of_dvd (by omega)

/-- Otherwise the residue is negative, and so no digit (40_segment_encoder.md R53). -/
theorem res_neg {m : ResidueMode} {n : Int} (h : ¬ (m = .magnitude ∨ 0 ≤ n ∨ placeDigit n 0 = 0)) : res m n < 0 := by
  rw [placeDigit_zero] at h
  simp only [not_or] at h
  obtain ⟨hmode, hneg, hlast⟩ := h
  cases m with
  | magnitude => exact absurd rfl hmode
  | truncated =>
    rw [res_truncated, trem, tdiv, Int.sign_eq_neg_one_of_neg (by omega)]
    omega

/-- DEC's pattern is the glyph of the least-significant decimal place (40_segment_encoder.md R53 to R55). -/
theorem decPattern_eq_placeGlyph (c : Cfg) (n : Int) : decPattern c n = placeGlyph c n 0 := by
  unfold decPattern placeGlyph
  split
  case isTrue hdigit => rw [res_eq_placeDigit hdigit, lutf_of_digit c _ (placeDigit_lt n 0)]
  case isFalse hfallback => exact lutf_of_not_digit c _ (.inl (res_neg hfallback))

/-- What the lookup can give: a digit's pattern or FALLBACK (40_segment_encoder.md R54). -/
theorem lutf_cases (c : Cfg) (r : Int) :
    (∃ (d : Nat) (hd : d < 10), r = (d : Int) ∧ lutf c r = c.digit[d]) ∨ ((r < 0 ∨ 9 < r) ∧ lutf c r = c.fallback) := by
  by_cases h : r < 0 ∨ 9 < r
  · exact .inr ⟨h, lutf_of_not_digit c r h⟩
  · obtain ⟨d, rfl⟩ := Int.eq_ofNat_of_zero_le (show 0 ≤ r by omega)
    exact .inl ⟨d, by omega, rfl, lutf_of_digit c d (by omega)⟩

theorem lutf_eq_fallback_iff {c : Cfg} (hwf : c.wf = true) (r : Int) : lutf c r = c.fallback ↔ r < 0 ∨ 9 < r := by
  obtain ⟨d, hd, rfl, hdigit⟩ | ⟨hout, hfallback⟩ := lutf_cases c r
  · exact iff_of_false (hdigit ▸ Cfg.wf_digit_ne_fallback hwf d hd) (by omega)
  · exact iff_of_true hfallback hout

theorem lutf_dp {c : Cfg} (hwf : c.wf = true) (r : Int) : lutf c r &&& c.dpMask = 0#8 := by
  obtain ⟨d, hd, -, hdigit⟩ | ⟨-, hfallback⟩ := lutf_cases c r
  · rw [hdigit, Cfg.wf_digit_dp hwf d hd]
  · rw [hfallback, (Cfg.wf_fallback hwf).2]

/-! ### The HEX pair -/

/-- The HEX table is DIGIT below 10 and HEXAF from 10 on (10_state.md R21). -/
theorem hexLookup_eq_nibbleGlyph (c : Cfg) (d : BitVec 4) : hexLookup c d = nibbleGlyph c d.toFin := by
  unfold hexLookup nibbleGlyph
  split
  case isTrue h => exact c.hexTable_digit _ h
  case isFalse h => exact c.hexTable_hexaf _ d.isLt h

theorem hiNibble_toFin : ∀ b : BitVec 8, (hiNibble b).toFin = highOf b := by decide

theorem loNibble_toFin : ∀ b : BitVec 8, (loNibble b).toFin = lowOf b := by decide

theorem hexPair_of_hiFirst {c : Cfg} (h : c.hexOrder = .hiFirst) (b : BitVec 8) :
    hexPair c b = .two (nibbleGlyph c (highOf b)) (nibbleGlyph c (lowOf b)) := by
  simp only [hexPair, h, hexLookup_eq_nibbleGlyph, hiNibble_toFin, loNibble_toFin]

theorem hexPair_of_loFirst {c : Cfg} (h : c.hexOrder = .loFirst) (b : BitVec 8) :
    hexPair c b = .two (nibbleGlyph c (lowOf b)) (nibbleGlyph c (highOf b)) := by
  simp only [hexPair, h, hexLookup_eq_nibbleGlyph, hiNibble_toFin, loNibble_toFin]

/-- Neither glyph of a HEX result carries the decimal point (30_encoding.md R45, R49). -/
theorem hexPair_shown {c : Cfg} (hwf : c.wf = true) (b : BitVec 8) : (hexPair c b).Shown c := by
  have hdp (d : BitVec 4) : hexLookup c d &&& c.dpMask = 0#8 := Cfg.wf_hexTable_dp hwf d.toNat d.isLt
  unfold hexPair
  split
  case h_1 => exact ⟨hdp _, hdp _⟩
  case h_2 => exact ⟨hdp _, hdp _⟩

end Sys2Proof.Machine

namespace Sys2Proof.Claims

open Sys2Proof.Machine

/-! ### The encoder's statements -/

theorem delivers_dec_iff (n : Int) (s : State) (p : Pattern) :
    Delivers (.dec n) s (.one p) ↔ p = placeGlyph s.cfg n 0 := by
  rw [delivers_iff, resultOf, Result.one.injEq, decPattern_eq_placeGlyph]

theorem delivers_lut_iff (r : Int) (s : State) (p : Pattern) : Delivers (.lut r) s (.one p) ↔ p = lutf s.cfg r := by
  rw [delivers_iff, resultOf, Result.one.injEq]

theorem delivers_hex_iff (b : BitVec 8) (s : State) (r : Result) : Delivers (.hex b) s r ↔ r = hexPair s.cfg b :=
  delivers_iff (.hex b) s r

/-- DEC shows FALLBACK exactly for a negative operand under TRUNCATED that 10 does not divide
(40_segment_encoder.md R58 (c), (d)). -/
theorem delivers_dec_fallback_iff {s : State} (hwf : s.cfg.wf = true) (n : Int) :
    Delivers (.dec n) s (.one s.cfg.fallback) ↔
      s.cfg.residueMode ≠ .magnitude ∧ n < 0 ∧ ¬ (10 : Int) ∣ n := by
  have hlast : n.natAbs % 10 = 0 ↔ (10 : Int) ∣ n := by omega
  rw [delivers_dec_iff, eq_comm, placeGlyph_eq_fallback_iff hwf, placeDigit_zero, hlast, not_or, not_or, not_le]

theorem delivers_lut_fallback_iff {s : State} (hwf : s.cfg.wf = true) (r : Int) :
    Delivers (.lut r) s (.one s.cfg.fallback) ↔ r < 0 ∨ 9 < r := by
  rw [delivers_lut_iff, eq_comm, lutf_eq_fallback_iff hwf]

/-- On 0..9 DEC shows the digits, which are distinct and not FALLBACK (40_segment_encoder.md R58 (f)). -/
theorem dec_of_digits_injective {s : State} (hwf : s.cfg.wf = true) (m n : Fin 10) (p : Pattern)
    (hm : Delivers (.dec m.val) s (.one p)) :
    p ≠ s.cfg.fallback ∧ (Delivers (.dec n.val) s (.one p) → m = n) := by
  rw [delivers_dec_iff, placeGlyph_of_nonneg _ (Int.natCast_nonneg _)] at hm ⊢
  refine ⟨hm ▸ Cfg.wf_digit_ne_fallback hwf _ _, fun hn => ?_⟩
  have hdigit := Cfg.wf_digit_inj hwf _ _ _ _ (hm.symm.trans hn)
  rw [placeDigit_zero, placeDigit_zero] at hdigit
  omega

/-- Settles O16: DEC's pattern is the glyph of decimal place 0. -/
theorem decShowsTheLeastSignificantDigit : Obligations.DecShowsTheLeastSignificantDigit := by
  unfold Obligations.DecShowsTheLeastSignificantDigit
  exact fun n s => (delivers_dec_iff n s _).2 rfl

/-- Settles O17: LUT shows what the lookup gives. -/
theorem lookupFallsBackOutsideTheDigits : Obligations.LookupFallsBackOutsideTheDigits := by
  unfold Obligations.LookupFallsBackOutsideTheDigits
  intro r s
  refine ⟨?_, fun hout => (delivers_lut_iff r s _).2 (lutf_of_not_digit s.cfg r hout).symm⟩
  rintro d rfl
  exact (delivers_lut_iff _ s _).2 (lutf_of_digit s.cfg d.val d.isLt).symm

/-- Settles O18: each nibble's HEX entry is its glyph, and HEX_ORDER orders the pair. -/
theorem hexShowsBothNibblesInOrder : Obligations.HexShowsBothNibblesInOrder := by
  unfold Obligations.HexShowsBothNibblesInOrder
  exact fun b s => ⟨fun h => (delivers_hex_iff b s _).2 (hexPair_of_hiFirst h b).symm,
    fun h => (delivers_hex_iff b s _).2 (hexPair_of_loFirst h b).symm⟩

/-- Settles O19, part by part: (a) a result is made from the configuration alone, (b) to (f) follow from where the
glyph is FALLBACK, and (g) from the tables carrying no decimal point. -/
theorem encoderPropertiesHold : Obligations.EncoderPropertiesHold := by
  unfold Obligations.EncoderPropertiesHold
  intro s hwf
  refine ⟨fun i => ⟨resultOf s.cfg i, fun s' hcfg => hcfg ▸ delivers_resultOf i s'⟩, fun n hn => ?nonneg,
    fun hmode n h => ?magnitude, fun hmode n => ?truncated, delivers_lut_fallback_iff hwf,
    dec_of_digits_injective hwf, fun n p h => ?decLutPoint, fun b p q h => ?hexPoint⟩
  case nonneg => exact (delivers_dec_iff n s _).2 (placeGlyph_of_nonneg s.cfg hn 0).symm
  case magnitude => exact ((delivers_dec_fallback_iff hwf n).1 h).1 hmode
  case truncated => simp only [delivers_dec_fallback_iff hwf, hmode, ne_eq, reduceCtorEq, not_false_eq_true, true_and]
  case decLutPoint =>
    rw [delivers_dec_iff, delivers_lut_iff] at h
    obtain rfl | rfl := h
    · exact placeGlyph_dp hwf n 0
    · exact lutf_dp hwf n
  case hexPoint =>
    have hshown := hexPair_shown hwf b
    rwa [← (delivers_hex_iff b s _).1 h] at hshown

end Sys2Proof.Claims

/-! PROOFS of the family of 41_frame_formatter.md: the quotient chain, the closed form of the frame, the decimal point,
the sign marker, and what a frame tells of its operand. -/

namespace Sys2Proof.Claims

open Sys2Proof.Machine

/-! ### Decimal places and digit counts -/

/-- Two operands agree below 10^n exactly when they agree in each of the n lowest decimal places. -/
theorem natAbs_mod_pow_eq_iff (t t' : Int) (n : Nat) :
    t.natAbs % 10 ^ n = t'.natAbs % 10 ^ n ↔ ∀ i < n, placeDigit t i = placeDigit t' i := by
  constructor
  · intro h i hi
    have hplace (a : Nat) : a % 10 ^ n / 10 ^ i % 10 = a / 10 ^ i % 10 := by
      obtain ⟨k, rfl⟩ := Nat.exists_eq_add_of_lt hi
      rw [add_assoc, pow_add, Nat.mod_mul_right_div_self, Nat.mod_mod_of_dvd _ (dvd_pow_self 10 k.succ_ne_zero)]
    rw [placeDigit, placeDigit, ← hplace, h, hplace]
  · intro h
    induction n with
    | zero => rw [pow_zero, Nat.mod_one, Nat.mod_one]
    | succ n ih =>
      have hplace : t.natAbs / 10 ^ n % 10 = t'.natAbs / 10 ^ n % 10 := h n n.lt_succ_self
      rw [Nat.mod_pow_succ, Nat.mod_pow_succ, hplace, ih fun i hi => h i (hi.trans n.lt_succ_self)]

theorem placeDigit_eq_zero_of_lt {t : Int} {i : Nat} (h : t.natAbs < 10 ^ i) : placeDigit t i = 0 := by
  rw [placeDigit, Nat.div_eq_of_lt h, Nat.zero_mod]

/-- Every number has a count of decimal digits (41_frame_formatter.md R62). -/
theorem exists_isDigitCount (m : Nat) : ∃ D, IsDigitCount D m := by
  refine ⟨Nat.log 10 m + 1, Nat.succ_pos _, Nat.lt_pow_succ_log_self (by decide) m, ?_⟩
  rcases eq_or_ne m 0 with rfl | hm
  · exact .inl (by rw [Nat.log_zero_right])
  · exact .inr (Nat.pow_log_le_self 10 hm)

/-- The digit count tells which powers of ten, from 10 on, a number reaches. -/
theorem IsDigitCount.pow_le_iff {D m i : Nat} (h : IsDigitCount D m) (hi : 1 ≤ i) : 10 ^ i ≤ m ↔ i < D := by
  obtain ⟨-, hlt, hle⟩ := h
  constructor
  · exact fun hpow => (Nat.pow_lt_pow_iff_right (by decide)).1 (hpow.trans_lt hlt)
  · intro hiD
    obtain hone | hpow := hle
    · omega
    · exact (Nat.pow_le_pow_right (by decide) (by omega)).trans hpow

/-! ### The glyph of a decimal place -/

theorem placeGlyph_of_magnitude {c : Cfg} (h : c.residueMode = .magnitude) (t : Int) (i : Nat) :
    placeGlyph c t i = c.digit[placeDigit t i]'(placeDigit_lt t i) := if_pos (.inl h)

theorem placeGlyph_ne_fallback {c : Cfg} (hwf : c.wf = true) (hmode : c.residueMode = .magnitude) (t : Int) (i : Nat) :
    placeGlyph c t i ≠ c.fallback := fun h => (placeGlyph_eq_fallback_iff hwf t i).1 h (.inl hmode)

end Sys2Proof.Claims

namespace Sys2Proof.Machine

open Sys2Proof.Claims

/-! ### Truncating division by a power of ten -/

theorem natAbs_tdiv_pow (t : Int) (i : Nat) : (t.tdiv (10 ^ i)).natAbs = t.natAbs / 10 ^ i := by
  rw [Int.natAbs_tdiv, Int.natAbs_pow]
  rfl

theorem tdiv_pow_eq_zero_or_sign (t : Int) (i : Nat) : t.tdiv (10 ^ i) = 0 ∨ (t.tdiv (10 ^ i)).sign = t.sign := by
  have hpow : ((10 : Int) ^ i).sign = 1 := Int.sign_eq_one_of_pos (by positivity)
  rw [← Int.sign_eq_zero_iff_zero, Int.sign_tdiv, hpow, mul_one]
  split
  case isTrue => exact .inl rfl
  case isFalse => exact .inr rfl

theorem int_tdiv_tdiv (t : Int) (m n : Nat) : (t.tdiv m).tdiv n = t.tdiv (m * n : Nat) := by
  obtain ⟨a, rfl | rfl⟩ := Int.eq_nat_or_neg t
  · rw [← Int.ofNat_tdiv, ← Int.ofNat_tdiv, ← Int.ofNat_tdiv, Nat.div_div_eq_div_mul]
  · rw [Int.neg_tdiv, Int.neg_tdiv, Int.neg_tdiv, ← Int.ofNat_tdiv, ← Int.ofNat_tdiv, ← Int.ofNat_tdiv,
      Nat.div_div_eq_div_mul]

theorem tdiv_tdiv_pow (t : Int) (i : Nat) : tdiv (t.tdiv (10 ^ i)) = t.tdiv (10 ^ (i + 1)) := by
  rw [tdiv_eq_int_tdiv]
  exact_mod_cast int_tdiv_tdiv t (10 ^ i) 10

/-! ### The scan -/

theorem scanNext_q (x : Scan) : (scanNext x).q = tdiv x.q := by
  unfold scanNext
  split
  case isTrue => rfl
  case isFalse hzero => rw [not_not.1 hzero]; rfl

/-- The quotient tested at position 4 + j (41_frame_formatter.md R61). -/
theorem scanAt_q (t : Int) (j : Nat) : (scanAt t j).q = t.tdiv (10 ^ (j + 2)) := by
  induction j with
  | zero => rw [scanAt, scanStart, tdiv_eq_int_tdiv t, ← tdiv_tdiv_pow, pow_one]
  | succ j ih => rw [scanAt, scanNext_q, ih, tdiv_tdiv_pow]

theorem natAbs_scanAt_q (t : Int) (j : Nat) : (scanAt t j).q.natAbs = t.natAbs / 10 ^ (j + 2) := by
  rw [scanAt_q, natAbs_tdiv_pow]

theorem scanAt_q_ne_zero_iff (t : Int) (j : Nat) : (scanAt t j).q ≠ 0 ↔ 10 ^ (j + 2) ≤ t.natAbs := by
  rw [← Int.natAbs_ne_zero, natAbs_scanAt_q, Nat.div_ne_zero_iff]
  simp

/-- The sign marker is pending at position 4 + j of a negative t while every position below shows a digit
(41_frame_formatter.md R59, R62). -/
theorem scanAt_signPending_iff (t : Int) (j : Nat) :
    (scanAt t j).signPending = true ↔ t < 0 ∧ (j = 0 ∨ 10 ^ (j + 1) ≤ t.natAbs) := by
  induction j with
  | zero => simp [scanAt, scanStart]
  | succ j ih =>
    rw [scanAt, scanNext]
    split
    case isTrue hq =>
      rw [scanAt_q_ne_zero_iff] at hq
      have hbelow : 10 ^ (j + 1) ≤ t.natAbs := (Nat.pow_le_pow_right (by decide) (by omega)).trans hq
      simp only [ih, hq, hbelow, or_true]
    case isFalse hq =>
      rw [scanAt_q_ne_zero_iff] at hq
      simp [hq]

/-! ### The frame against its closed form -/

/-- The digit of a quotient of t by 10^i is the glyph of decimal place i of t (40_segment_encoder.md R53,
41_frame_formatter.md R64). -/
theorem decPattern_tdiv_pow (c : Cfg) (t : Int) (i : Nat) : decPattern c (t.tdiv (10 ^ i)) = placeGlyph c t i := by
  have hdigit : placeDigit (t.tdiv (10 ^ i)) 0 = placeDigit t i := by
    rw [placeDigit_zero, natAbs_tdiv_pow, placeDigit]
  have hsign : (0 ≤ t.tdiv (10 ^ i) ∨ placeDigit t i = 0) ↔ (0 ≤ t ∨ placeDigit t i = 0) := by
    obtain hzero | hsign := tdiv_pow_eq_zero_or_sign t i
    · have hplace : placeDigit t i = 0 := by rw [← hdigit, hzero]; rfl
      simp only [hplace, or_true]
    · rw [← Int.sign_nonneg_iff, hsign, Int.sign_nonneg_iff]
  rw [decPattern_eq_placeGlyph]
  simp only [placeGlyph, hdigit, hsign]

/-- What the scan shows at position 4 + j (41_frame_formatter.md R61, R62). -/
theorem scanGlyph_scanAt (c : Cfg) (t : Int) (j : Nat) : scanGlyph c (scanAt t j) = upperGlyph c t (j + 4) := by
  have hfirst : j + 4 = 4 ↔ j = 0 := by omega
  simp only [scanGlyph, scanAt_q_ne_zero_iff, scanAt_signPending_iff, upperGlyph, hfirst]
  rw [scanAt_q, decPattern_tdiv_pow]
  rfl

theorem fmtFrame_eq_closedFrame (c : Cfg) (t : Int) : fmtFrame c t = closedFrame c t := by
  have hunits : decPattern c (tdiv t) = placeGlyph c t 1 := by
    rw [tdiv_eq_int_tdiv, ← decPattern_tdiv_pow, pow_one]
  simp only [fmtFrame, closedFrame, hunits, decPattern_eq_placeGlyph c t, scanGlyph_scanAt]

end Sys2Proof.Machine

namespace Sys2Proof.Claims

open Sys2Proof.Machine

theorem delivers_fmt_iff (t : Int) (s : State) (r : Result) :
    Delivers (.fmt t) s r ↔ r = .frame (closedFrame s.cfg t) := by
  rw [delivers_iff, resultOf, fmtFrame_eq_closedFrame]

theorem delivers_closedFrame (t : Int) (s : State) : Delivers (.fmt t) s (.frame (closedFrame s.cfg t)) :=
  (delivers_fmt_iff t s _).2 rfl

/-- Settles O22: the quotients of the scan are those of t by the powers of ten, and the marker is pending until it is
shown. -/
theorem fmtScanGivesTheClosedFrame : Obligations.FmtScanGivesTheClosedFrame := by
  unfold Obligations.FmtScanGivesTheClosedFrame
  exact delivers_closedFrame

/-! ### What a position of 4 to 7 shows -/

theorem closedFrame_upper (c : Cfg) (t : Int) {k : Fin 8} (hk : 4 ≤ k.val) :
    (closedFrame c t)[k] = upperGlyph c t k.val := by
  match k, hk with
  | 4, _ => rfl
  | 5, _ => rfl
  | 6, _ => rfl
  | 7, _ => rfl

theorem upperGlyph_of_le (c : Cfg) {t : Int} {k : Nat} (h : 10 ^ (k - 2) ≤ t.natAbs) :
    upperGlyph c t k = placeGlyph c t (k - 2) := if_pos h

/-- From 10^5 on every position of the frame shows a digit (41_frame_formatter.md R62). -/
theorem upperGlyph_of_full (c : Cfg) {t : Int} {k : Nat} (hk : k < 8) (h : 10 ^ 5 ≤ t.natAbs) :
    upperGlyph c t k = placeGlyph c t (k - 2) :=
  upperGlyph_of_le c ((Nat.pow_le_pow_right (by decide) (by omega)).trans h)

theorem upperGlyph_of_nonneg (c : Cfg) {t : Int} {k : Nat} (ht : 0 ≤ t) (h : t.natAbs < 10 ^ (k - 2)) :
    upperGlyph c t k = blankGlyph := by
  rw [upperGlyph, if_neg h.not_ge, if_neg fun hneg => hneg.1.not_ge ht]

theorem upperGlyph_of_lt (c : Cfg) {t : Int} {k : Nat} (h : t.natAbs < 10 ^ (k - 2)) :
    upperGlyph c t k = c.fallback ∨ upperGlyph c t k = blankGlyph := by
  rw [upperGlyph, if_neg h.not_ge]
  exact ite_eq_or_eq _ _ _

/-- No position of 4 to 7 carries the decimal point (30_encoding.md R45, R47, R48). -/
theorem upperGlyph_dp {c : Cfg} (hwf : c.wf = true) (t : Int) (k : Nat) : upperGlyph c t k &&& c.dpMask = 0#8 := by
  rcases Nat.lt_or_ge t.natAbs (10 ^ (k - 2)) with hlt | hle
  · obtain hfallback | hblank := upperGlyph_of_lt c hlt
    · rw [hfallback, (Cfg.wf_fallback hwf).2]
    · rw [hblank, blankGlyph, BitVec.zero_and]
  · rw [upperGlyph_of_le c hle, placeGlyph_dp hwf]

/-- Under MAGNITUDE no digit looks like the sign marker (41_frame_formatter.md R62). -/
theorem upperGlyph_eq_fallback_iff {c : Cfg} (hwf : c.wf = true) (hmode : c.residueMode = .magnitude) (t : Int)
    (k : Nat) : upperGlyph c t k = c.fallback ↔
      t.natAbs < 10 ^ (k - 2) ∧ t < 0 ∧ (k = 4 ∨ 10 ^ (k - 3) ≤ t.natAbs) := by
  unfold upperGlyph
  split
  case isTrue hdigit => exact iff_of_false (placeGlyph_ne_fallback hwf hmode t _) fun h => h.1.not_ge hdigit
  case isFalse hnone =>
    split
    case isTrue hmarker => exact iff_of_true rfl ⟨not_le.1 hnone, hmarker⟩
    case isFalse hblank => exact iff_of_false (Cfg.wf_fallback_ne_blank hwf).symm fun h => hblank h.2

/-! ### The decimal point -/

/-- The closed frame is one the configuration can show: the point at position 3 alone (41_frame_formatter.md R60). -/
theorem closedFrame_shown {c : Cfg} (hwf : c.wf = true) (t : Int) : (Result.frame (closedFrame c t)).Shown c := by
  refine ⟨rfl, rfl, ?_, fun k hk => ?_⟩
  · show (placeGlyph c t 1 ||| c.dpMask) &&& c.dpMask = c.dpMask
    rw [BitVec.and_or_distrib_right, placeGlyph_dp hwf, BitVec.and_self, BitVec.zero_or]
  · rcases Nat.lt_or_ge k.val 4 with hlow | hhigh
    · match k, hk, hlow with
      | 0, _, _ => exact Cfg.wf_glyphC_dp hwf
      | 1, _, _ => exact BitVec.zero_and
      | 2, _, _ => exact placeGlyph_dp hwf t 0
      | 3, hunits, _ => exact absurd rfl hunits
    · rw [closedFrame_upper c t hhigh, upperGlyph_dp hwf]

/-- Settles O23: the closed frame carries the point at position 3 alone. -/
theorem onlyTheUnitsPositionCarriesThePoint : Obligations.OnlyTheUnitsPositionCarriesThePoint := by
  unfold Obligations.OnlyTheUnitsPositionCarriesThePoint
  intro t s hwf
  obtain ⟨-, -, hunits, hothers⟩ := closedFrame_shown hwf t
  exact ⟨closedFrame s.cfg t, delivers_closedFrame t s, hunits, hothers⟩

theorem dpMask_ne_zero (c : Cfg) : c.dpMask ≠ 0#8 := by
  intro h
  have hone := popcount_dpMask c
  rw [h] at hone
  exact absurd hone (by decide)

/-- Settles O32: segment DP is lit exactly where the pattern carries the decimal-point bit. -/
theorem pointSegmentIsLitAtTheUnitsPositionOnly : Obligations.PointSegmentIsLitAtTheUnitsPositionOnly := by
  unfold Obligations.PointSegmentIsLitAtTheUnitsPositionOnly
  intro t s hwf
  obtain ⟨-, -, hunits, hothers⟩ := closedFrame_shown hwf t
  refine ⟨closedFrame s.cfg t, delivers_closedFrame t s, fun k => ?_⟩
  rw [lights_dp_iff]
  by_cases hk : k = 3
  · subst hk
    exact iff_of_true (ne_of_eq_of_ne hunits (dpMask_ne_zero s.cfg)) rfl
  · exact iff_of_false (not_not_intro (hothers k hk)) hk

/-! ### The quotient chain -/

/-- Settles O24: the quotient at position 4 + j is that of t by 10^(j+2), rounded toward zero. -/
theorem quotientChainIsTheTruncatedMagnitude : Obligations.QuotientChainIsTheTruncatedMagnitude := by
  unfold Obligations.QuotientChainIsTheTruncatedMagnitude
  intro t
  refine ⟨scanAt_q t 0, fun j => ⟨?recurrence, natAbs_scanAt_q t j, ?sign, ?absorbing, fun c =>
    ⟨?digit, ?none, ?frame⟩⟩⟩
  case recurrence => rw [scanAt, scanNext_q, tdiv_eq_int_tdiv]
  case sign =>
    rw [scanAt_q]
    exact tdiv_pow_eq_zero_or_sign t _
  case absorbing =>
    intro hzero m
    contrapose! hzero
    rw [scanAt_q_ne_zero_iff] at hzero ⊢
    exact (Nat.pow_le_pow_right (by decide) (by omega)).trans hzero
  case digit => exact fun hle => if_pos ((scanAt_q_ne_zero_iff t j).2 hle)
  case none =>
    intro hlt
    rw [scanGlyph_scanAt]
    exact upperGlyph_of_lt c hlt
  case frame =>
    refine fun s => ⟨closedFrame s.cfg t, delivers_closedFrame t s, fun k hk => ?_⟩
    rw [closedFrame_upper _ _ (by omega), hk, scanGlyph_scanAt, add_comm]

/-! ### The sign marker -/

/-- p is the lowest position, from 4 up, that shows no digit of t. -/
structure IsSignPosition (t : Int) (p : Nat) : Prop where
  four_le : 4 ≤ p
  lt_iff_digit : ∀ k, 4 ≤ k → (k < p ↔ 10 ^ (k - 2) ≤ t.natAbs)

theorem isSignPosition_of_isDigitCount {t : Int} {D : Nat} (h : IsDigitCount D t.natAbs) :
    IsSignPosition t (max 4 (D + 2)) := by
  refine ⟨le_max_left _ _, fun k hk => ?_⟩
  rw [h.pow_le_iff (by omega)]
  omega

/-- Below 10^5 the frame has room for the marker (41_frame_formatter.md R62). -/
theorem exists_isSignPosition {t : Int} (h : t.natAbs < 10 ^ 5) : ∃ p : Fin 8, IsSignPosition t p.val := by
  obtain ⟨D, hD⟩ := exists_isDigitCount t.natAbs
  have hp := isSignPosition_of_isDigitCount hD
  have hlt : ¬ 7 < max 4 (D + 2) := fun h7 => h.not_ge ((hp.lt_iff_digit 7 (by decide)).1 h7)
  exact ⟨⟨max 4 (D + 2), by omega⟩, hp⟩

theorem upperGlyph_at_signPosition (c : Cfg) {t : Int} {p : Nat} (ht : t < 0) (h : IsSignPosition t p) :
    upperGlyph c t p = c.fallback := by
  obtain ⟨hp, hdigits⟩ := h
  have hnone : ¬ 10 ^ (p - 2) ≤ t.natAbs := (hdigits p hp).not.1 (lt_irrefl p)
  have hbelow : p = 4 ∨ 10 ^ (p - 3) ≤ t.natAbs := by
    rcases eq_or_lt_of_le hp with h4 | h4
    · exact .inl h4.symm
    · exact .inr ((hdigits (p - 1) (by omega)).1 (by omega))
  rw [upperGlyph, if_neg hnone, if_pos ⟨ht, hbelow⟩]

theorem upperGlyph_above_signPosition (c : Cfg) {t : Int} {p k : Nat} (h : IsSignPosition t p) (hk : p < k) :
    upperGlyph c t k = blankGlyph := by
  obtain ⟨hp, hdigits⟩ := h
  have hnone : ¬ 10 ^ (k - 2) ≤ t.natAbs := (hdigits k (by omega)).not.1 (by omega)
  have hbelow : ¬ 10 ^ (k - 3) ≤ t.natAbs := (hdigits (k - 1) (by omega)).not.1 (by omega)
  rw [upperGlyph, if_neg hnone, if_neg (by omega)]

/-- Settles O25: position max(4, D+2) is the lowest one without a digit, and from 10^5 on there is none. -/
theorem signMarkerStandsAboveTheDigits : Obligations.SignMarkerStandsAboveTheDigits := by
  unfold Obligations.SignMarkerStandsAboveTheDigits
  intro t s hwf
  refine ⟨closedFrame s.cfg t, delivers_closedFrame t s, fun ht _ D hD p hp => ?marker, fun ht k hk hlt => ?blank,
    fun _ hle => ?full⟩
  case marker =>
    have hpos : IsSignPosition t p.val := hp ▸ isSignPosition_of_isDigitCount hD
    have h4 : 4 ≤ p.val := hpos.four_le
    refine ⟨?_, fun k hk => ?_, fun hmode k hk hne => ?_⟩
    · rw [closedFrame_upper _ _ h4, upperGlyph_at_signPosition _ ht hpos]
    · rw [closedFrame_upper _ _ (h4.trans hk.le), upperGlyph_above_signPosition _ hpos hk]
    · rw [closedFrame_upper _ _ hk]
      rcases lt_or_gt_of_ne hne with hbelow | habove
      · rw [upperGlyph_of_le _ ((hpos.lt_iff_digit k.val hk).1 hbelow)]
        exact placeGlyph_ne_fallback hwf hmode t _
      · rw [upperGlyph_above_signPosition _ hpos habove]
        exact (Cfg.wf_fallback_ne_blank hwf).symm
  case blank => rw [closedFrame_upper _ _ hk, upperGlyph_of_nonneg _ ht hlt]
  case full =>
    have hdigit (k : Fin 8) (hk : 4 ≤ k.val) : (closedFrame s.cfg t)[k] = placeGlyph s.cfg t (k.val - 2) := by
      rw [closedFrame_upper _ _ hk, upperGlyph_of_full _ k.isLt hle]
    exact ⟨hdigit, fun hmode k hk => hdigit k hk ▸ placeGlyph_ne_fallback hwf hmode t _⟩

/-! ### Truncation -/

/-- Settles O26: positions 4 to 7 all show digits, and the frame shows the six lowest places alone. -/
theorem digitsBeyondPositionSevenAreLost : Obligations.DigitsBeyondPositionSevenAreLost := by
  unfold Obligations.DigitsBeyondPositionSevenAreLost
  intro t t' s hmode hle hle' hmod
  have hplaces := (natAbs_mod_pow_eq_iff t t' 6).1 hmod
  have hglyph (i : Nat) (hi : i < 6) : placeGlyph s.cfg t i = placeGlyph s.cfg t' i := by
    simp only [placeGlyph_of_magnitude hmode, hplaces i hi]
  have hupper (k : Nat) (hk : k < 8) : upperGlyph s.cfg t k = upperGlyph s.cfg t' k := by
    rw [upperGlyph_of_full _ hk hle, upperGlyph_of_full _ hk hle', hglyph _ (by omega)]
  have hframe : closedFrame s.cfg t = closedFrame s.cfg t' := by
    simp only [closedFrame, hglyph 0 (by decide), hglyph 1 (by decide), hupper 4 (by decide), hupper 5 (by decide),
      hupper 6 (by decide), hupper 7 (by decide)]
  exact ⟨closedFrame s.cfg t, delivers_closedFrame t s, hframe ▸ delivers_closedFrame t' s⟩

/-- Settles O27: a 16-bit operand is below 10^5, so the frame has room for all its digits and its sign. -/
theorem defaultWidthFramesAreComplete : Obligations.DefaultWidthFramesAreComplete := by
  unfold Obligations.DefaultWidthFramesAreComplete
  intro t s _ hwidth hrange
  have hlt : t.natAbs < 10 ^ 5 := by
    rw [hwidth, Instr.wf, inSignedRange_iff] at hrange
    omega
  refine ⟨hlt, fun i hi => placeDigit_eq_zero_of_lt (hlt.trans_le (Nat.pow_le_pow_right (by decide) hi)),
    closedFrame s.cfg t, delivers_closedFrame t s, rfl, rfl, fun k hk hle => ?digit, fun ht k hk hlt => ?blank,
    fun ht => ?marker⟩
  case digit => rw [closedFrame_upper _ _ hk, upperGlyph_of_le _ hle]
  case blank => rw [closedFrame_upper _ _ hk, upperGlyph_of_nonneg _ ht hlt]
  case marker =>
    obtain ⟨p, hp⟩ := exists_isSignPosition hlt
    refine ⟨p, hp.four_le, ?_, fun k hk => hp.lt_iff_digit k.val hk⟩
    rw [closedFrame_upper _ _ hp.four_le, upperGlyph_at_signPosition _ ht hp]

/-! ### Reading a frame back -/

section ReadBack

variable {c : Cfg} (hwf : c.wf = true) (hmode : c.residueMode = .magnitude)
  (hlit : ∀ d : Fin 10, d ≠ 0 → c.digit[d] ≠ blankGlyph)

include hwf hmode

theorem placeDigit_eq_of_placeGlyph_eq {t t' : Int} {i : Nat} (h : placeGlyph c t i = placeGlyph c t' i) :
    placeDigit t i = placeDigit t' i := by
  rw [placeGlyph_of_magnitude hmode, placeGlyph_of_magnitude hmode] at h
  exact Cfg.wf_digit_inj hwf _ _ _ _ h

/-- Below 10^5 a frame shows the sign marker exactly for a negative operand (41_frame_formatter.md R62). -/
theorem closedFrame_shows_sign_iff {t : Int} (h : t.natAbs < 10 ^ 5) :
    (∃ k : Fin 8, 4 ≤ k.val ∧ (closedFrame c t)[k] = c.fallback) ↔ t < 0 := by
  constructor
  · rintro ⟨k, hk, hsign⟩
    rw [closedFrame_upper c t hk, upperGlyph_eq_fallback_iff hwf hmode] at hsign
    obtain ⟨-, hneg, -⟩ := hsign
    exact hneg
  · intro ht
    obtain ⟨p, hp⟩ := exists_isSignPosition h
    exact ⟨p, hp.four_le, (closedFrame_upper c t hp.four_le).trans (upperGlyph_at_signPosition c ht hp)⟩

include hlit

/-- A position of 4 to 7 shows a digit other than 0 exactly when that is the digit of its place, unless such a digit is
dark (41_frame_formatter.md R64). -/
theorem upperGlyph_eq_digit_iff (t : Int) (k : Nat) {d : Fin 10} (hd : d ≠ 0) :
    upperGlyph c t k = c.digit[d] ↔ placeDigit t (k - 2) = d.val := by
  rcases Nat.lt_or_ge t.natAbs (10 ^ (k - 2)) with hlt | hle
  · have hzero : placeDigit t (k - 2) ≠ d.val := by
      rw [placeDigit_eq_zero_of_lt hlt]
      exact fun h => hd (Fin.ext h.symm)
    obtain hfallback | hblank := upperGlyph_of_lt c hlt
    · exact iff_of_false (hfallback ▸ (Cfg.wf_digit_ne_fallback hwf d.val d.isLt).symm) hzero
    · exact iff_of_false (hblank ▸ (hlit d hd).symm) hzero
  · rw [upperGlyph_of_le c hle, placeGlyph_of_magnitude hmode]
    exact ⟨Cfg.wf_digit_inj hwf _ _ _ _, fun h => by simp only [h, Fin.getElem_fin]⟩

theorem placeDigit_eq_of_upperGlyph_eq {t t' : Int} {k : Nat} (h : upperGlyph c t k = upperGlyph c t' k) :
    placeDigit t (k - 2) = placeDigit t' (k - 2) := by
  have hsame (d : Fin 10) (hd : d ≠ 0) : placeDigit t (k - 2) = d.val ↔ placeDigit t' (k - 2) = d.val := by
    rw [← upperGlyph_eq_digit_iff hwf hmode hlit t k hd, ← upperGlyph_eq_digit_iff hwf hmode hlit t' k hd, h]
  by_cases hzero : placeDigit t (k - 2) = 0
  · by_contra hne
    exact hne ((hsame ⟨_, placeDigit_lt t' _⟩ fun h0 => hne (hzero.trans (congrArg Fin.val h0).symm)).2 rfl)
  · exact ((hsame ⟨_, placeDigit_lt t _⟩ fun h0 => hzero (congrArg Fin.val h0)).1 rfl).symm

/-- Equal frames have equal digits in the six places they show (41_frame_formatter.md R64). -/
theorem placeDigit_eq_of_closedFrame_eq {t t' : Int} (h : closedFrame c t = closedFrame c t') :
    ∀ i < 6, placeDigit t i = placeDigit t' i
  | 0, _ => placeDigit_eq_of_placeGlyph_eq hwf hmode (congrArg (·[2]) h)
  | 1, _ => by
    have hpoint : placeGlyph c t 1 ||| c.dpMask = placeGlyph c t' 1 ||| c.dpMask := congrArg (·[3]) h
    rw [← BitVec.add_eq_or_of_and_eq_zero _ _ (placeGlyph_dp hwf t 1),
      ← BitVec.add_eq_or_of_and_eq_zero _ _ (placeGlyph_dp hwf t' 1)] at hpoint
    exact placeDigit_eq_of_placeGlyph_eq hwf hmode (add_right_cancel hpoint)
  | i + 2, hi => by
    have hk : 4 ≤ (⟨i + 4, by omega⟩ : Fin 8).val := Nat.le_add_left 4 i
    have hupper : upperGlyph c t (i + 4) = upperGlyph c t' (i + 4) :=
      (closedFrame_upper c t hk).symm.trans (h ▸ closedFrame_upper c t' hk)
    exact placeDigit_eq_of_upperGlyph_eq hwf hmode hlit hupper

end ReadBack

/-- Settles O28: the digits of the frame are those of the magnitude, and the marker tells the sign. -/
theorem framesReadBackUniquely : Obligations.FramesReadBackUniquely := by
  unfold Obligations.FramesReadBackUniquely
  intro t t' s r hwf hmode hlit hlt hlt' h h'
  rw [delivers_fmt_iff] at h h'
  have hframe : closedFrame s.cfg t = closedFrame s.cfg t' := Result.frame.inj (h.symm.trans h')
  have hmagnitude : t.natAbs = t'.natAbs := by
    have hmod := (natAbs_mod_pow_eq_iff t t' 5).2 fun i hi =>
      placeDigit_eq_of_closedFrame_eq hwf hmode hlit hframe i (by omega)
    rwa [Nat.mod_eq_of_lt hlt, Nat.mod_eq_of_lt hlt'] at hmod
  have hsign : t < 0 ↔ t' < 0 := by
    rw [← closedFrame_shows_sign_iff hwf hmode hlt, hframe, closedFrame_shows_sign_iff hwf hmode hlt']
  omega

/-! ### The document's frames -/

theorem placeGlyph_of_truncated {c : Cfg} (h : c.residueMode = .truncated) {t : Int} (ht : t < 0) {i : Nat}
    (hi : placeDigit t i ≠ 0) : placeGlyph c t i = c.fallback := by
  simp [placeGlyph, h, hi, ht]

/-- Settles O29: the closed frame of each operand, evaluated. -/
theorem sourceFramePropertiesHold : Obligations.SourceFramePropertiesHold := by
  unfold Obligations.SourceFramePropertiesHold
  refine fun s => ⟨fun hmode => ?_, fun hmode => ?_⟩
  · simp only [delivers_fmt_iff, closedFrame, upperGlyph, placeGlyph_of_magnitude hmode]
    exact ⟨rfl, rfl, rfl⟩
  · rw [delivers_fmt_iff, closedFrame, placeGlyph_of_truncated hmode (by decide) (by decide),
      placeGlyph_of_truncated hmode (by decide) (by decide)]
    rfl

end Sys2Proof.Claims

/-! PROOFS of the family of 60_exceptions.md: the invariant of the run's record, the refusal mark, and when a step
answers a next state. -/

namespace Sys2Proof.Machine

/-! ### The numbers of the requests without a result -/

theorem refusedNumbers_append (k : Nat) (l m : List (Option Result)) :
    refusedNumbers k (l ++ m) = refusedNumbers k l ++ refusedNumbers (k + l.length) m := by
  induction l generalizing k with
  | nil => rfl
  | cons e l ih =>
    have hlen : k + (e :: l).length = k + 1 + l.length := by rw [List.length_cons]; omega
    rw [hlen]
    cases e with
    | none => exact congrArg (k :: ·) (ih (k + 1))
    | some r => exact ih (k + 1)

theorem refusedNumbers_eq_nil_iff (k : Nat) (l : List (Option Result)) : refusedNumbers k l = [] ↔ none ∉ l := by
  induction l generalizing k with
  | nil => simp [refusedNumbers]
  | cons e l ih =>
    cases e with
    | none => simp [refusedNumbers]
    | some r => simp [refusedNumbers, ih]

/-- In a good state the mark is set exactly when the trace has an empty entry (60_exceptions.md R68). -/
theorem State.Inv.refusalRecorded_iff {s : State} (h : s.Inv) : s.refusalRecorded = true ↔ none ∈ s.trace := by
  calc s.refusalRecorded = true
    _ ↔ s.mark.map RefusalRecord.number ≠ [] := by simp [State.refusalRecorded]
    _ ↔ refusedNumbers 1 s.trace ≠ [] := by rw [h.markIsRefusals]
    _ ↔ none ∈ s.trace := by rw [Ne, refusedNumbers_eq_nil_iff, not_not]

/-! ### What each update of the state does to the invariant -/

/-- Under a well-formed configuration every instruction's result is one it can show (40_segment_encoder.md R58 (g),
41_frame_formatter.md R60). -/
theorem resultOf_shown {c : Cfg} (hwf : c.wf = true) (i : Instr) : (resultOf c i).Shown c := by
  cases i with
  | dec n => exact lutf_dp hwf _
  | hex b => exact hexPair_shown hwf b
  | fmt t =>
    rw [resultOf, fmtFrame_eq_closedFrame]
    exact Claims.closedFrame_shown hwf t
  | lut r => exact lutf_dp hwf r

theorem State.Inv.withInputs {s : State} (h : s.Inv) {rest : List Input} (hrest : rest ⊆ s.inputs) :
    (s.withInputs rest).Inv where
  cfgWf := h.cfgWf
  markIsRefusals := h.markIsRefusals
  portIsLast := h.portIsLast
  traceShown := h.traceShown
  inputsFit := fun x hx => h.inputsFit x (hrest hx)

theorem State.Inv.withResult {s : State} (h : s.Inv) {r : Result} (hr : r.Shown s.cfg) : (s.withResult r).Inv where
  cfgWf := h.cfgWf
  markIsRefusals := by
    rw [withResult_mark, withResult_trace, refusedNumbers_append, h.markIsRefusals]
    exact (List.append_nil _).symm
  portIsLast := by
    intro r' hport
    rw [withResult_trace, List.getLast?_concat, ← withResult_port s r, hport]
  traceShown := by
    intro r' hmem
    rw [withResult_trace, List.mem_append, List.mem_singleton, Option.some.injEq] at hmem
    obtain hold | rfl := hmem
    · exact h.traceShown r' hold
    · exact hr
  inputsFit := h.inputsFit

/-- The new record and the trace's empty entry have one number (log entry 5). -/
theorem State.Inv.withRefusal {s : State} (h : s.Inv) (r : RefusalReason) : (s.withRefusal r).Inv where
  cfgWf := h.cfgWf
  markIsRefusals := by
    rw [withRefusal_mark, withRefusal_trace, refusedNumbers_append, List.map_append, h.markIsRefusals, Nat.add_comm 1]
    rfl
  portIsLast := by simp only [withRefusal_port, reduceCtorEq, false_implies, implies_true]
  traceShown := by
    intro r' hmem
    rw [withRefusal_trace, List.mem_append, List.mem_singleton] at hmem
    obtain hold | hnew := hmem
    · exact h.traceShown r' hold
    · cases hnew
  inputsFit := h.inputsFit

theorem State.Inv.afterReset {s : State} (h : s.Inv) : s.afterReset.Inv where
  cfgWf := h.cfgWf
  markIsRefusals := h.markIsRefusals
  portIsLast := by simp only [afterReset_port, reduceCtorEq, false_implies, implies_true]
  traceShown := h.traceShown
  inputsFit := h.inputsFit

theorem State.Inv.tail {s : State} (h : s.Inv) {x : Input} {rest : List Input} (hin : s.inputs = x :: rest) :
    (s.withInputs rest).Inv :=
  h.withInputs (hin ▸ List.subset_cons_self x rest)

/-- Every step keeps the invariant: it takes at most one input, and then delivers a result, records a refusal or
resets. -/
theorem step_inv {s s' : State} (hstep : step s = .next s') (h : s.Inv) : s'.Inv := by
  obtain ⟨hwf, ⟨-, rfl⟩ | ⟨w, rest, i, hin, -, rfl⟩ | ⟨w, rest, r, hin, -, rfl⟩ |
    ⟨rest, hin | ⟨w, hin⟩, rfl⟩⟩ := step_cases hstep
  · exact h
  · exact (h.tail hin).withResult (resultOf_shown hwf i)
  · exact (h.tail hin).withRefusal r
  · exact (h.tail hin).afterReset
  · exact (h.tail hin).afterReset

/-! ### The refusal mark -/

/-- A step leaves the mark as it is or adds one record at its end (60_exceptions.md R68). -/
theorem step_mark {s s' : State} (h : step s = .next s') : s.mark <+: s'.mark := by
  obtain ⟨-, ⟨-, rfl⟩ | ⟨_, _, _, -, -, rfl⟩ | ⟨_, _, _, -, -, rfl⟩ | ⟨_, -, rfl⟩⟩ := step_cases h
  · exact List.prefix_rfl
  · rw [withResult_mark, withInputs_mark]
  · rw [withRefusal_mark, withInputs_mark]
    exact List.prefix_append _ _
  · rw [afterReset_mark, withInputs_mark]

/-! ### What a step answers -/

theorem step_of_ill_formed {s : State} (h : s.cfg.wf = false) : step s = .refused .illFormedConfig := by
  simp only [step, h, Bool.false_eq_true, if_false]

/-- With nothing issued the block waits (70_reset_and_hazards.md R77; log entry 8). -/
theorem step_of_inputs_nil {s : State} (hwf : s.cfg.wf = true) (hin : s.inputs = []) : step s = .next s := by
  simp only [step, hwf, if_true, takeNextInput, hin]

/-- A step over an accepted request delivers its result (60_exceptions.md R67). -/
theorem step_of_accepted {s : State} {w : ReqWord} {rest : List Input} {i : Instr} (hwf : s.cfg.wf = true)
    (hin : s.inputs = .request w :: rest) (hd : decode s.cfg.tempW (portWord s.cfg w) = .accepted i) :
    step s = .next ((s.withInputs rest).withResult (resultOf s.cfg i)) :=
  (step_of_inputs_cons hwf hin).trans (evaluateRequest_of_accepted hd)

/-- Under a well-formed configuration no step stops (60_exceptions.md R67, R68). -/
theorem exists_step_next {s : State} (hwf : s.cfg.wf = true) : ∃ s', step s = .next s' := by
  cases hin : s.inputs with
  | nil => exact ⟨s, step_of_inputs_nil hwf hin⟩
  | cons x rest =>
    obtain ⟨t, ht, -⟩ := step_takes_oldest hwf hin
    exact ⟨t, ht⟩

end Sys2Proof.Machine

namespace Sys2Proof.Claims

open Sys2Proof.Machine

/-- Settles O38: each of the updates a step is made of keeps the invariant. -/
theorem everyStepKeepsTheRunRecord : Obligations.EveryStepKeepsTheRunRecord := by
  unfold Obligations.EveryStepKeepsTheRunRecord
  exact fun s s' h hstep => step_inv hstep h

/-- Settles O10: every step's mark extends the one before it, so every run's does. -/
theorem refusalMarkIsNeverCleared : Obligations.RefusalMarkIsNeverCleared := by
  unfold Obligations.RefusalMarkIsNeverCleared
  intro n s s' hrun
  have hkeeps (a b : State) (hstep : step a = .next b) (ha : s.mark <+: a.mark) : s.mark <+: b.mark :=
    ha.trans (step_mark hstep)
  obtain ⟨more, hmore⟩ := runSteps_keeps hkeeps n s s' hrun List.prefix_rfl
  exact ⟨more, hmore.symm⟩

/-- Settles O12: a step goes on whatever the oldest input is, and an accepted one delivers its result. -/
theorem everyAcceptedRequestReturnsAResult : Obligations.EveryAcceptedRequestReturnsAResult := by
  unfold Obligations.EveryAcceptedRequestReturnsAResult
  intro s hwf
  refine ⟨exists_step_next hwf, fun w rest i hin hd => ?_⟩
  exact ⟨_, _, step_of_accepted hwf hin hd, withResult_port _ _, resultOf_length s.cfg i⟩

/-- Settles O39: the run ends in a state with the invariant, whose mark counts the empty entries of its trace. -/
theorem markIsSetExactlyWhenARequestHasNoResult : Obligations.MarkIsSetExactlyWhenARequestHasNoResult := by
  unfold Obligations.MarkIsSetExactlyWhenARequestHasNoResult
  intro n s s' h hrun
  have hend : s'.Inv := runSteps_keeps (fun _ _ => step_inv) n s s' hrun h
  exact hend.refusalRecorded_iff

/-- Settles O9: the step over a refused request is the recorded refusal at the state with that request taken. -/
theorem refusedRequestIsRecordedAndTheBlockGoesOn : Obligations.RefusedRequestIsRecordedAndTheBlockGoesOn := by
  unfold Obligations.RefusedRequestIsRecordedAndTheBlockGoesOn
  exact fun s w rest r hwf hin hd => step_of_refused hwf hin hd

/-- Settles O11: the step checks the configuration before it takes an input. -/
theorem illFormedConfigurationEvaluatesNothing : Obligations.IllFormedConfigurationEvaluatesNothing := by
  unfold Obligations.IllFormedConfigurationEvaluatesNothing
  exact fun s => step_of_ill_formed

end Sys2Proof.Claims

/-! PROOFS of the family of 70_reset_and_hazards.md: what a reset does, alone or during a request, and the wait. -/

namespace Sys2Proof.Machine

/-! ### A reset and a request it cuts -/

/-- Taking a reset and taking a request cut by one leave the same state, whatever the request word was
(70_reset_and_hazards.md R77). -/
theorem takeInput_of_resets {x : Input} (hx : x = .reset ∨ ∃ w, x = .requestCutByReset w) (s : State) :
    takeInput x s = .next s.afterReset := by
  obtain rfl | ⟨w, rfl⟩ := hx
  · rfl
  · rfl

/-- The step over a reset, alone or cutting a request, empties the port at the state with that input taken. -/
theorem step_of_resets {s : State} {x : Input} {rest : List Input} (hwf : s.cfg.wf = true)
    (hin : s.inputs = x :: rest) (hx : x = .reset ∨ ∃ w, x = .requestCutByReset w) :
    step s = .next (s.withInputs rest).afterReset :=
  (step_of_inputs_cons hwf hin).trans (takeInput_of_resets hx _)

end Sys2Proof.Machine

namespace Sys2Proof.Claims

open Sys2Proof.Machine

/-- Settles O13: a reset and a request it cuts are taken alike, and the state after a reset differs in the port alone. -/
theorem resetKeepsTablesAndEmptiesThePort : Obligations.ResetKeepsTablesAndEmptiesThePort := by
  unfold Obligations.ResetKeepsTablesAndEmptiesThePort
  intro s w rest hwf
  constructor
  · exact fun hreset => step_of_resets hwf hreset (.inl rfl)
  · exact fun hcut => step_of_resets hwf hcut (.inr ⟨w, rfl⟩)

/-- Settles O14: with no input to take, the step answers the state it was given. -/
theorem blockWaitsWhileNothingIsIssued : Obligations.BlockWaitsWhileNothingIsIssued := by
  unfold Obligations.BlockWaitsWhileNothingIsIssued
  exact fun s hwf hin => step_of_inputs_nil hwf hin

end Sys2Proof.Claims
